-- ==== Sys2Proof/Word.lean ====
section
/-! DEFINITION. The widths of the machine's values (00_scope.md R7, R9; 10_state.md R24). -/

namespace Sys2Proof

/-- A byte: a general register, a timer, a memory cell (R7). -/
abbrev Byte := BitVec 8

/-- A 16-bit word: an instruction, the index register I, the key vector (R7, R45). -/
abbrev Word := BitVec 16

/-- A program counter value or a return address.
PC is 16 bits wide (R23); R24 has a model compute the next PC in 17 bits, so that with MEM_SIZE above
0xFFFD it cannot wrap to a valid address. The 17th bit is never 1 for MEM_SIZE at most 0xFFFD.
DEDUCED, notes/assumptions/2.md. -/
abbrev Pc := BitVec 17

/-- A register index, 0x0 to 0xF (R14, R20, R33). -/
abbrev Reg := BitVec 4

/-- The 12-bit address operand nnn (R14). -/
abbrev Addr := BitVec 12

/-- VF, the register that also receives every flag (10_state.md R21). -/
abbrev Reg.vf : Reg := 15#4

/-- `nnn` as a 16-bit address (30_encoding.md R82). -/
abbrev Addr.toWord (nnn : Addr) : Word := nnn.setWidth 16

/-- A 16-bit address as a program counter value. -/
abbrev Word.toPc (a : Word) : Pc := a.setWidth 17

end Sys2Proof
end

