-- ==== Sys2Proof/Config.lean ====
section
/-! DEFINITION. What is fixed for a run: the implementation parameters of 00_scope.md R6, and the one
free value of the model, the random byte of a tick for which the environment has scheduled no input. -/

namespace Sys2Proof

/-- UNKNOWN_OPCODE_POLICY (R6, 40_engine_cycle.md R105). -/
inductive OpcodePolicy where
  | lenient
  | strict
  deriving DecidableEq, Repr

/-- KEY_WAIT_TRIGGER (R6, 45_timers_keys.md R227). -/
inductive KeyTrigger where
  | level
  | edge
  deriving DecidableEq, Repr

/-- The parameters of R6. PROG_BASE is not among them: R6 fixes it at 0x200. -/
structure Config where
  /-- MEM_SIZE: Memory capacity in bytes. -/
  memSize : Nat
  /-- STACK_DEPTH: CallStack capacity in entries. -/
  stackDepth : Nat
  /-- FB_W: framebuffer width in pixels. -/
  fbW : Nat
  /-- FB_H: framebuffer height in pixels. -/
  fbH : Nat
  /-- FONT_BASE: address of glyph 0. -/
  fontBase : Nat
  /-- FONT: the 80 glyph bytes. -/
  font : List Byte
  /-- UNKNOWN_OPCODE_POLICY. -/
  unknownOpcode : OpcodePolicy
  /-- ZERO_WORD_HALT: whether the word 0x0000 halts the engine. -/
  zeroWordHalt : Bool
  /-- KEY_WAIT_TRIGGER. -/
  keyTrigger : KeyTrigger
  deriving DecidableEq, Repr

namespace Config

/-- PROG_BASE: load address of the program and reset PC (R6: fixed, not a free parameter). -/
abbrev progBase : Nat := 0x200

/-- The number of bytes of the glyph table: 16 glyphs of 5 bytes (R7). -/
abbrev fontBytes : Nat := 80

/-- The constraints a model may assume of the parameters (R6). -/
abbrev wf (c : Config) : Prop :=
  progBase < c.memSize ∧ c.memSize ≤ 0x10000 ∧ c.fontBase + fontBytes ≤ progBase ∧
    c.font.length = fontBytes ∧ 1 ≤ c.stackDepth ∧ 1 ≤ c.fbW ∧ 1 ≤ c.fbH

/-- FREE VALUE: the random byte on rnd_in in a tick whose input the schedule of State does not give.
Nothing constrains it: "The block puts no law on rnd_in" (42_register_alu.md R161, 93 U5).
notes/assumptions/3.md. -/
opaque freeRndIn : Nat → BitVec 8

end Config

end Sys2Proof
end

