-- ==== Sys2Proof/Syntax.lean ====
section
/-! DEFINITION. The instructions: one constructor per row of spec/opcode_table.json, in the table's
order (30_encoding.md R85). Operands are the decoder's fields (00_scope.md R14). SHR and SHL have the
one operand x: their y field is ignored, "any y gives the same instruction" (R88). -/

namespace Sys2Proof

inductive Instr where
  /-- 0000 HALT, the sentinel; recognised only when ZERO_WORD_HALT (40_engine_cycle.md R104). -/
  | halt
  /-- 00E0 CLS (44_display.md R200). -/
  | cls
  /-- 00EE RET (41_control_flow.md R130). -/
  | ret
  /-- 1nnn JP addr (R131). -/
  | jp (nnn : Addr)
  /-- 2nnn CALL addr (R132). -/
  | call (nnn : Addr)
  /-- 3xkk SE Vx,kk (R133). -/
  | seImm (x : Reg) (kk : Byte)
  /-- 4xkk SNE Vx,kk (R134). -/
  | sneImm (x : Reg) (kk : Byte)
  /-- 5xy0 SE Vx,Vy (R135). -/
  | seReg (x y : Reg)
  /-- 6xkk LD Vx,kk (42_register_alu.md R150). -/
  | ldImm (x : Reg) (kk : Byte)
  /-- 7xkk ADD Vx,kk (R151). -/
  | addImm (x : Reg) (kk : Byte)
  /-- 8xy0 LD Vx,Vy (R152). -/
  | ldReg (x y : Reg)
  /-- 8xy1 OR Vx,Vy (R153). -/
  | orReg (x y : Reg)
  /-- 8xy2 AND Vx,Vy (R154). -/
  | andReg (x y : Reg)
  /-- 8xy3 XOR Vx,Vy (R155). -/
  | xorReg (x y : Reg)
  /-- 8xy4 ADD Vx,Vy (R156). -/
  | addReg (x y : Reg)
  /-- 8xy5 SUB Vx,Vy (R157). -/
  | subReg (x y : Reg)
  /-- 8xy6 SHR Vx (R159). -/
  | shr (x : Reg)
  /-- 8xy7 SUBN Vx,Vy (R158). -/
  | subnReg (x y : Reg)
  /-- 8xyE SHL Vx (R160). -/
  | shl (x : Reg)
  /-- 9xy0 SNE Vx,Vy (41_control_flow.md R136). -/
  | sneReg (x y : Reg)
  /-- Annn LD I,addr (43_index_memory.md R180). -/
  | ldI (nnn : Addr)
  /-- Bnnn JP V0,addr (41_control_flow.md R137). -/
  | jpV0 (nnn : Addr)
  /-- Cxkk RND Vx,kk (42_register_alu.md R161). -/
  | rnd (x : Reg) (kk : Byte)
  /-- Dxyn DRW Vx,Vy,n (44_display.md R201); n is a count, 0 to 15 (R82). -/
  | drw (x y : Reg) (n : Nat)
  /-- Ex9E SKP Vx (45_timers_keys.md R224). -/
  | skp (x : Reg)
  /-- ExA1 SKNP Vx (R225). -/
  | sknp (x : Reg)
  /-- Fx07 LD Vx,DT (R221). -/
  | ldVxDt (x : Reg)
  /-- Fx0A LD Vx,K (R226). -/
  | ldVxK (x : Reg)
  /-- Fx15 LD DT,Vx (R222). -/
  | ldDtVx (x : Reg)
  /-- Fx18 LD ST,Vx (R223). -/
  | ldStVx (x : Reg)
  /-- Fx1E ADD I,Vx (43_index_memory.md R181). -/
  | addI (x : Reg)
  /-- Fx29 LD F,Vx (R182). -/
  | ldF (x : Reg)
  /-- Fx33 LD B,Vx (R183). -/
  | ldB (x : Reg)
  /-- Fx55 LD [I],Vx (R184). -/
  | stRegs (x : Reg)
  /-- Fx65 LD Vx,[I] (R185). -/
  | ldRegs (x : Reg)
  deriving DecidableEq, Repr

end Sys2Proof
end

