-- ==== Sys2Proof/Decode.lean ====
section
/-! DEFINITION. The decoder (30_encoding.md): the descriptor of R81, the opcode map of R85, `classify`
of R86, and the encoder written from the same map. The bit patterns are the spec's, which marks them as
general knowledge (D2, D3; notes/assumptions/1.md). -/

namespace Sys2Proof

/-- The fields of an instruction word, all extracted from every word (R81, R84). -/
structure Descriptor where
  c : BitVec 4
  x : Reg
  y : Reg
  n : BitVec 4
  kk : Byte
  nnn : Addr
  deriving DecidableEq, Repr

/-- The source's Decoder: a pure total function from a word to its descriptor (R81, R84). -/
def describe (w : Word) : Descriptor where
  c := w.extractLsb' 12 4
  x := w.extractLsb' 8 4
  y := w.extractLsb' 4 4
  n := w.extractLsb' 0 4
  kk := w.extractLsb' 0 8
  nnn := w.extractLsb' 0 12

/-- One row of the opcode map: a word `w` selects it when `w &&& mask = pattern` (R85). -/
structure OpRow where
  pattern : Word
  mask : Word
  build : Descriptor → Instr

/-- The rows of classes 0 to 7 (R85), the HALT row apart. -/
def opRowsLow : List OpRow :=
  [⟨0x00E0, 0xFFFF, fun _ => .cls⟩,
   ⟨0x00EE, 0xFFFF, fun _ => .ret⟩,
   ⟨0x1000, 0xF000, fun d => .jp d.nnn⟩,
   ⟨0x2000, 0xF000, fun d => .call d.nnn⟩,
   ⟨0x3000, 0xF000, fun d => .seImm d.x d.kk⟩,
   ⟨0x4000, 0xF000, fun d => .sneImm d.x d.kk⟩,
   ⟨0x5000, 0xF00F, fun d => .seReg d.x d.y⟩,
   ⟨0x6000, 0xF000, fun d => .ldImm d.x d.kk⟩,
   ⟨0x7000, 0xF000, fun d => .addImm d.x d.kk⟩]

/-- The rows of classes 8 and 9 (R85). -/
def opRowsAlu : List OpRow :=
  [⟨0x8000, 0xF00F, fun d => .ldReg d.x d.y⟩,
   ⟨0x8001, 0xF00F, fun d => .orReg d.x d.y⟩,
   ⟨0x8002, 0xF00F, fun d => .andReg d.x d.y⟩,
   ⟨0x8003, 0xF00F, fun d => .xorReg d.x d.y⟩,
   ⟨0x8004, 0xF00F, fun d => .addReg d.x d.y⟩,
   ⟨0x8005, 0xF00F, fun d => .subReg d.x d.y⟩,
   ⟨0x8006, 0xF00F, fun d => .shr d.x⟩,
   ⟨0x8007, 0xF00F, fun d => .subnReg d.x d.y⟩,
   ⟨0x800E, 0xF00F, fun d => .shl d.x⟩,
   ⟨0x9000, 0xF00F, fun d => .sneReg d.x d.y⟩]

/-- The rows of classes A to F (R85). -/
def opRowsHigh : List OpRow :=
  [⟨0xA000, 0xF000, fun d => .ldI d.nnn⟩,
   ⟨0xB000, 0xF000, fun d => .jpV0 d.nnn⟩,
   ⟨0xC000, 0xF000, fun d => .rnd d.x d.kk⟩,
   ⟨0xD000, 0xF000, fun d => .drw d.x d.y d.n.toNat⟩,
   ⟨0xE09E, 0xF0FF, fun d => .skp d.x⟩,
   ⟨0xE0A1, 0xF0FF, fun d => .sknp d.x⟩,
   ⟨0xF007, 0xF0FF, fun d => .ldVxDt d.x⟩,
   ⟨0xF00A, 0xF0FF, fun d => .ldVxK d.x⟩,
   ⟨0xF015, 0xF0FF, fun d => .ldDtVx d.x⟩,
   ⟨0xF018, 0xF0FF, fun d => .ldStVx d.x⟩,
   ⟨0xF01E, 0xF0FF, fun d => .addI d.x⟩,
   ⟨0xF029, 0xF0FF, fun d => .ldF d.x⟩,
   ⟨0xF033, 0xF0FF, fun d => .ldB d.x⟩,
   ⟨0xF055, 0xF0FF, fun d => .stRegs d.x⟩,
   ⟨0xF065, 0xF0FF, fun d => .ldRegs d.x⟩]

/-- The opcode map of R85 other than its HALT row. -/
def opcodeMap : List OpRow := opRowsLow ++ opRowsAlu ++ opRowsHigh

/-- A word selects a row (R85). -/
def OpRow.selects (r : OpRow) (w : Word) : Bool := w &&& r.mask == r.pattern

/-- What a word is: an instruction of the map, or UNRECOGNIZED (R84, R87). -/
inductive Decoded where
  | instr (i : Instr)
  | unrecognized (w : Word)
  deriving DecidableEq, Repr

/-- `classify` of R86, with the matched row's operands read from the descriptor. -/
def decodeWord (c : Config) (w : Word) : Decoded :=
  if w = 0 ∧ c.zeroWordHalt = true then .instr .halt
  else
    match opcodeMap.find? (fun r => r.selects w) with
    | some r => .instr (r.build (describe w))
    | none => .unrecognized w

/-- What a byte stream begins with. -/
inductive Fetched where
  /-- A decoded word and the bytes after it. -/
  | word (d : Decoded) (rest : List Byte)
  /-- Fewer than the 2 bytes of an instruction (R80). -/
  | truncated
  deriving DecidableEq, Repr

/-- Two bytes as a big-endian word: the first gives bits 15:8 (20_memory.md R67). -/
def wordOfBytes (hi lo : Byte) : Word := hi ++ lo

/-- The bytes of a word in the order they are stored: high byte first (R67). -/
def bytesOfWord (w : Word) : List Byte := [w.extractLsb' 8 8, w.extractLsb' 0 8]

/-- The decoder on a byte stream: always exactly 2 bytes (R80, R90). -/
def decode (c : Config) : List Byte → Fetched
  | hi :: lo :: rest => .word (decodeWord c (wordOfBytes hi lo)) rest
  | _ => .truncated

/-- The word of an instruction, from the patterns of R83 and R85.
The ignored y field of SHR and SHL (R88) is written as 0. -/
def encode : Instr → Word
  | .halt => 0x0000
  | .cls => 0x00E0
  | .ret => 0x00EE
  | .jp nnn => 0x1#4 ++ nnn
  | .call nnn => 0x2#4 ++ nnn
  | .seImm x kk => 0x3#4 ++ x ++ kk
  | .sneImm x kk => 0x4#4 ++ x ++ kk
  | .seReg x y => 0x5#4 ++ x ++ y ++ 0x0#4
  | .ldImm x kk => 0x6#4 ++ x ++ kk
  | .addImm x kk => 0x7#4 ++ x ++ kk
  | .ldReg x y => 0x8#4 ++ x ++ y ++ 0x0#4
  | .orReg x y => 0x8#4 ++ x ++ y ++ 0x1#4
  | .andReg x y => 0x8#4 ++ x ++ y ++ 0x2#4
  | .xorReg x y => 0x8#4 ++ x ++ y ++ 0x3#4
  | .addReg x y => 0x8#4 ++ x ++ y ++ 0x4#4
  | .subReg x y => 0x8#4 ++ x ++ y ++ 0x5#4
  | .shr x => 0x8#4 ++ x ++ 0x0#4 ++ 0x6#4
  | .subnReg x y => 0x8#4 ++ x ++ y ++ 0x7#4
  | .shl x => 0x8#4 ++ x ++ 0x0#4 ++ 0xE#4
  | .sneReg x y => 0x9#4 ++ x ++ y ++ 0x0#4
  | .ldI nnn => 0xA#4 ++ nnn
  | .jpV0 nnn => 0xB#4 ++ nnn
  | .rnd x kk => 0xC#4 ++ x ++ kk
  | .drw x y n => 0xD#4 ++ x ++ y ++ BitVec.ofNat 4 n
  | .skp x => 0xE#4 ++ x ++ 0x9E#8
  | .sknp x => 0xE#4 ++ x ++ 0xA1#8
  | .ldVxDt x => 0xF#4 ++ x ++ 0x07#8
  | .ldVxK x => 0xF#4 ++ x ++ 0x0A#8
  | .ldDtVx x => 0xF#4 ++ x ++ 0x15#8
  | .ldStVx x => 0xF#4 ++ x ++ 0x18#8
  | .addI x => 0xF#4 ++ x ++ 0x1E#8
  | .ldF x => 0xF#4 ++ x ++ 0x29#8
  | .ldB x => 0xF#4 ++ x ++ 0x33#8
  | .stRegs x => 0xF#4 ++ x ++ 0x55#8
  | .ldRegs x => 0xF#4 ++ x ++ 0x65#8

/-- The 16-bit word of an opcode-table instruction: its low `nbits` bits are those of `w`, and bits
above `nbits` are 0. -/
def tableWord (nbits w : Nat) : Word := BitVec.ofNat 16 (w % 2 ^ nbits)

/-- The instruction the decoder reads, under the default configuration, from a word numbered as
spec/opcode_table.json numbers it. -/
def decodeTableWord (nbits w : Nat) : Option Instr :=
  match decode Config.standard (bytesOfWord (tableWord nbits w)) with
  | .word (.instr i) _ => some i
  | _ => none

end Sys2Proof
end

