-- ==== Sys2Proof/Machine/State.lean ====
section
/-! DEFINITION. The machine's state as plain data (10_state.md, R20 to R46), why a step can stop, and
the state after reset (R41). -/

namespace Sys2Proof.Machine

/-- The engine state (R32). -/
inductive Mode where
  | running
  | awaitingKey
  | stopped
  deriving DecidableEq, Repr

/-- The kinds of fatal condition (60_exceptions.md R260). -/
inductive FatalKind where
  | fetchBounds
  | dataBounds
  | stackOverflow
  | stackUnderflow
  | unrecognizedOpcode
  | loadError
  deriving DecidableEq, Repr

/-- Why the engine stopped (R34). -/
inductive StopReason where
  | quit
  | halt
  | fatal (kind : FatalKind)
  deriving DecidableEq, Repr

/-- A diagnostic: the kind, and of word, pc, address and image length those the table of R260 records
for the kind (60_exceptions.md R267). -/
structure Diag where
  kind : FatalKind
  word : Option Word
  pc : Option Pc
  addr : Option Nat
  length : Option Nat
  deriving DecidableEq, Repr

/-- The inputs of one tick, sampled at its start (R45). -/
structure TickInput where
  /-- keys_in: bit k is logical key k. -/
  keys : Word
  /-- quit_in. -/
  quit : Bool
  /-- timer_strobe. -/
  strobe : Bool
  /-- rnd_in. -/
  rnd : Byte
  deriving DecidableEq, Repr

/-- The bytes of Memory that differ from its reset contents, by rising address (Machine/Memory.lean). -/
abbrev Memory := List Host.Cell

/-- The pixels (column, row) that are on, top row first and left to right (Machine/Framebuffer.lean). -/
abbrev Framebuffer := List (Nat × Nat)

/-- The machine between two ticks. -/
structure State where
  /-- The configuration of the run, which no tick changes (R42). notes/assumptions/4.md. -/
  cfg : Config
  /-- V0 to VF (R20). -/
  v : Vector Byte 16
  /-- The index register I (R22). -/
  i : Word
  /-- PC (R23, R24). -/
  pc : Pc
  /-- The CallStack's STACK_DEPTH entries; those at and above SP hold no meaning (R25). -/
  stack : List Pc
  /-- SP, the depth counter of the CallStack (R25). -/
  sp : Nat
  /-- The delay timer (R26). -/
  dt : Byte
  /-- The sound timer (R27). -/
  st : Byte
  /-- Memory (R28). -/
  mem : Memory
  /-- The Framebuffer (R29). -/
  fb : Framebuffer
  /-- KeyState: bit k is Keys[k] (R30). -/
  keys : Word
  /-- PrevKeys: the KeyState of the previous tick (R31). -/
  prevKeys : Word
  /-- Mode (R32). -/
  mode : Mode
  /-- PendingReg (R33). -/
  pendingReg : Reg
  /-- StopReason (R34). -/
  stopReason : Option StopReason
  /-- The output redraw of the last tick (R46, R107). -/
  redraw : Bool
  /-- The output tone of the last tick (R46, R228). -/
  tone : Bool
  /-- The output diag of the last tick (R46, R110). -/
  diag : Option Diag
  /-- The model's own: rnd_in as sampled at the start of this tick (R45). notes/assumptions/3.md. -/
  rndIn : Byte
  /-- The model's own: the inputs the environment will supply, next tick first.
  notes/assumptions/3.md. -/
  inputs : List TickInput
  /-- The model's own: how many free random bytes the ticks have drawn. notes/assumptions/3.md. -/
  freeDrawn : Nat
  deriving DecidableEq, Repr

/-- No step ends in a fault, so this type has no constructor: every fatal condition of the spec is an
effect it describes (the engine enters STOPPED, 60_exceptions.md R266), hence a next state. -/
inductive Fault where
  deriving DecidableEq, Repr

/-- Why an instruction has no meaning. -/
inductive Refusal where
  /-- Raised by exec alone, for an instruction that has no meaning yet (no arm raises it now). Safe:
  the machine stops where the hardware goes on. -/
  | notModelled (mnemonic : String)
  deriving DecidableEq, Repr

/-- The machine right after reset with the default configuration and the empty image
(R41; 70_reset_and_hazards.md R290, R291). Reset with a configuration and an image of one's own is
State.resetWith (Machine/Reset.lean). -/
def State.reset : State where
  cfg := Config.standard
  v := Vector.replicate 16 0
  i := 0
  pc := 0x200
  stack := List.replicate 16 0
  sp := 0
  dt := 0
  st := 0
  mem := []
  fb := []
  keys := 0
  prevKeys := 0
  mode := .running
  pendingReg := 0
  stopReason := none
  redraw := false
  tone := false
  diag := none
  rndIn := 0
  inputs := []
  freeDrawn := 0

end Sys2Proof.Machine
end

