-- ==== Sys2Proof/Machine/Framebuffer.lean ====
section
/-! DEFINITION. The Framebuffer (10_state.md R29) as the list of the pixels that are on, and the
pixel-XOR drawing of 44_display.md R201. A pixel is (column, row). -/

namespace Sys2Proof.Machine

/-- Row-major order: top row first, and from left to right in a row. -/
abbrev Pixel.before (p q : Nat × Nat) : Prop := p.2 < q.2 ∨ (p.2 = q.2 ∧ p.1 < q.1)

/-- FB[x][y] (R29). -/
def Framebuffer.on (fb : Framebuffer) (p : Nat × Nat) : Bool := decide (p ∈ fb)

/-- Turn on a pixel that is off. -/
def Framebuffer.insert : Framebuffer → Nat × Nat → Framebuffer
  | [], p => [p]
  | q :: rest, p => if Pixel.before p q then p :: q :: rest else q :: Framebuffer.insert rest p

/-- `FB[px][py] <- FB[px][py] ^ 1`. -/
def Framebuffer.toggle (fb : Framebuffer) (p : Nat × Nat) : Framebuffer :=
  if p ∈ fb then fb.filter (fun q => q != p) else Framebuffer.insert fb p

/-- The canonical form: pixels inside the grid, in strictly rising row-major order. -/
abbrev Framebuffer.wf (c : Config) (fb : Framebuffer) : Prop :=
  fb.Pairwise Pixel.before ∧ ∀ p ∈ fb, p.1 < c.fbW ∧ p.2 < c.fbH

/-- What a draw has done so far: the framebuffer and the collision result c of R201. -/
structure Drawing where
  fb : Framebuffer
  collision : Bool
  deriving DecidableEq, Repr

/-- Bit k of a sprite row from the left: "bit 7 is the leftmost pixel" (R201, R202). -/
def spriteBit (b : Byte) (k : Nat) : Bool := b.getLsbD (7 - k)

/-- The pixel of column k and row r of a sprite drawn at (x0, y0): each coordinate wraps on its own
(R201, corner case a). -/
def spritePixel (c : Config) (x0 y0 r k : Nat) : Nat × Nat := ((x0 + k) % c.fbW, (y0 + r) % c.fbH)

/-- XOR one sprite bit into its pixel; a 0 bit leaves everything (R201, corner case c). -/
def Drawing.xor (d : Drawing) (bit : Bool) (p : Nat × Nat) : Drawing :=
  if bit then ⟨d.fb.toggle p, d.collision || d.fb.on p⟩ else d

/-- One sprite row, columns 0 to 7 from the left (R201). -/
def Drawing.row (c : Config) (x0 y0 r : Nat) (b : Byte) (d : Drawing) : Drawing :=
  (List.range 8).foldl (fun d k => d.xor (spriteBit b k) (spritePixel c x0 y0 r k)) d

/-- The sprite rows from row `r` on, top first (R201). -/
def Drawing.rows (c : Config) (x0 y0 : Nat) : Nat → List Byte → Drawing → Drawing
  | _, [], d => d
  | r, b :: rest, d => Drawing.rows c x0 y0 (r + 1) rest (d.row c x0 y0 r b)

/-- Draw a sprite of the given rows at (x0, y0); the collision result starts at 0 (R201). -/
def Framebuffer.draw (c : Config) (fb : Framebuffer) (x0 y0 : Nat) (sprite : List Byte) : Drawing :=
  Drawing.rows c x0 y0 0 sprite ⟨fb, false⟩

end Sys2Proof.Machine
end

