-- ==== Sys2Proof/Machine/Memory.lean ====
section
/-! DEFINITION. Memory (20_memory.md) as a list of cells in one canonical form: a cell is listed only
where its byte differs from the reset contents, and addresses rise strictly. -/

namespace Sys2Proof.Machine

/-- What an address holds that no store has changed since reset: the glyph byte in
FONT_BASE .. FONT_BASE+79, 0x00 elsewhere (10_state.md R41, 20_memory.md R62). -/
def resetByte (c : Config) (a : Nat) : Byte :=
  if c.fontBase ≤ a ∧ a < c.fontBase + Config.fontBytes then c.font.getD (a - c.fontBase) 0 else 0

/-- The byte listed for an address, if any. -/
def Memory.find : Memory → Nat → Option Byte
  | [], _ => none
  | (k, b) :: rest, a => if k = a then some b else Memory.find rest a

/-- The byte at an address. -/
def Memory.read (c : Config) (m : Memory) (a : Nat) : Byte :=
  (Memory.find m a).getD (resetByte c a)

/-- List byte `b` for address `a`, keeping the addresses in order. -/
def Memory.insert : Memory → Nat → Byte → Memory
  | [], a, b => [(a, b)]
  | (k, b') :: rest, a, b =>
    if a < k then (a, b) :: (k, b') :: rest
    else if a = k then (a, b) :: rest
    else (k, b') :: Memory.insert rest a b

/-- Unlist an address. -/
def Memory.erase (m : Memory) (a : Nat) : Memory := m.filter (fun cell => cell.1 != a)

/-- Store a byte. -/
def Memory.write (c : Config) (m : Memory) (a : Nat) (b : Byte) : Memory :=
  if b = resetByte c a then Memory.erase m a else Memory.insert m a b

/-- The canonical form: addresses strictly rising, all below MEM_SIZE, and no cell equal to what an
unlisted address reads as. -/
abbrev Memory.wf (c : Config) (m : Memory) : Prop :=
  m.Pairwise (fun p q => p.1 < q.1) ∧ ∀ cell ∈ m, cell.1 < c.memSize ∧ cell.2 ≠ resetByte c cell.1

end Sys2Proof.Machine
end

