-- ==== Sys2Proof/Machine/Ops.lean ====
section
/-! DEFINITION. The named operations over registers, memory and the program counter, and the one way a
fatal condition is taken (60_exceptions.md R266). There is no return from it (R270). -/

namespace Sys2Proof.Machine

/-- What an instruction answers. -/
abbrev Result := Host.Outcome State Fault Refusal

namespace State

/-- `V[x]`. -/
def reg (s : State) (x : Reg) : Byte := s.v[x.toNat]'x.isLt

/-- `V[x] <- b`. -/
def setReg (s : State) (x : Reg) (b : Byte) : State := { s with v := s.v.set x.toNat b x.isLt }

/-- `M[a]` (00_scope.md R11). -/
def byte (s : State) (a : Nat) : Byte := Memory.read s.cfg s.mem a

/-- `MemWrite(a, 1, b)` (R11). -/
def putByte (s : State) (a : Nat) (b : Byte) : State := { s with mem := Memory.write s.cfg s.mem a b }

/-- Store bytes at ascending addresses from `a` (20_memory.md R69, R70). -/
def putBytes (s : State) (a : Nat) : List Byte → State
  | [] => s
  | b :: rest => putBytes (s.putByte a b) (a + 1) rest

/-- `MemRead` of n single bytes at ascending addresses from `a`. -/
def bytes (s : State) (a n : Nat) : List Byte := (List.range n).map (fun k => s.byte (a + k))

/-- `for i in 0 .. n-1: V[i] <- M[a+i]`. -/
def loadRegs (s : State) (a : Nat) : Nat → State
  | 0 => s
  | n + 1 => (s.loadRegs a n).setReg (BitVec.ofNat 4 n) (s.byte (a + n))

/-- V0 to V(n-1) in order. -/
def firstRegs (s : State) (n : Nat) : List Byte :=
  (List.range n).map (fun k => s.reg (BitVec.ofNat 4 k))

/-- `FB[x][y]` (10_state.md R29). -/
def pixel (s : State) (x y : Nat) : Bool := s.fb.on (x, y)

/-- `next`: `PC <- PC + 2` (R13, 40_engine_cycle.md R106). -/
def next (s : State) : State := { s with pc := s.pc + 2 }

/-- `PC <- PC + 4` when the condition holds, `PC <- PC + 2` otherwise (R13, R106). -/
def skipIf (s : State) (cond : Bool) : State := { s with pc := s.pc + (if cond then 4 else 2) }

/-- A jump: the next tick fetches at `target`. -/
def jump (s : State) (target : Pc) : State := { s with pc := target }

/-- `raise Fatal(kind, info)`, the stop entry of R266: none of the instruction's writes happen, Mode
becomes STOPPED, StopReason and diag say why, redraw and tone are 0, and PC keeps its value. -/
def fatal (s : State) (kind : FatalKind) (word : Option Word) (addr : Option Nat) : State :=
  { s with
    mode := .stopped
    stopReason := some (.fatal kind)
    diag := some { kind := kind, word := word, pc := some s.pc, addr := addr, length := none }
    redraw := false
    tone := false }

/-- A normal stop: by quit (R101) or by the HALT sentinel (R104). -/
def stop (s : State) (why : StopReason) : State := { s with mode := .stopped, stopReason := some why }

/-- The UNRECOGNIZED rule (R105): fatal under STRICT; under LENIENT a diagnostic and `PC <- PC + 2`. -/
def unrecognized (s : State) (w : Word) : State :=
  match s.cfg.unknownOpcode with
  | .strict => s.fatal .unrecognizedOpcode (some w) none
  | .lenient =>
    { s with
      diag := some { kind := .unrecognizedOpcode, word := some w, pc := some s.pc, addr := none, length := none }
      pc := s.pc + 2 }

end State

end Sys2Proof.Machine
end

