-- ==== Sys2Proof/Machine/Outputs.lean ====
section
/-! DEFINITION. The output ports (10_state.md R46) that are functions of the state, and the numbers and
texts the spec gives to names: fatal codes (60_exceptions.md R260) and the assembler spelling
(30_encoding.md R91). redraw, tone and diag are fields of State. -/

namespace Sys2Proof.Machine

/-- The code of a fatal kind (R260). -/
def FatalKind.code : FatalKind → Nat
  | .fetchBounds => 1
  | .dataBounds => 2
  | .stackOverflow => 3
  | .stackUnderflow => 4
  | .unrecognizedOpcode => 5
  | .loadError => 6

namespace State

/-- `fb_out`: the whole grid, row by row from the top, each from the left (R46, 44_display.md R203). -/
def fbOut (s : State) : List (List Bool) :=
  (List.range s.cfg.fbH).map fun y => (List.range s.cfg.fbW).map fun x => s.pixel x y

/-- `stopped` (R46). -/
def stopped (s : State) : Bool := decide (s.mode = .stopped)

/-- `exit_ok`: present only when stopped; 1 for QUIT and HALT, 0 for FATAL (R46). -/
def exitOk (s : State) : Option Bool :=
  match s.mode, s.stopReason with
  | .stopped, some .quit => some true
  | .stopped, some .halt => some true
  | .stopped, some (.fatal _) => some false
  | .stopped, none => none
  | .running, _ => none
  | .awaitingKey, _ => none

end State

/-- A hexadecimal digit. -/
def hexDigit (n : Nat) : String := String.singleton (Nat.digitChar (n % 16)).toUpper

/-- A byte as `0x` and two digits (00_scope.md R9). -/
def hexByte (b : Byte) : String := "0x" ++ hexDigit (b.toNat / 16) ++ hexDigit b.toNat

/-- A 12-bit address as `0x` and three digits. -/
def hexAddr (a : Addr) : String :=
  "0x" ++ hexDigit (a.toNat / 256) ++ hexDigit (a.toNat / 16) ++ hexDigit a.toNat

/-- `V0` to `VF` (R91). -/
def regName (x : Reg) : String := "V" ++ hexDigit x.toNat

/-- The assembler spelling of an instruction: mnemonic, a space, operands separated by commas with the
destination first (R91). HALT is written as the data word (R92). -/
def asm : Instr → String
  | .halt => "0x0000"
  | .cls => "CLS"
  | .ret => "RET"
  | .jp nnn => "JP " ++ hexAddr nnn
  | .call nnn => "CALL " ++ hexAddr nnn
  | .seImm x kk => "SE " ++ regName x ++ "," ++ hexByte kk
  | .sneImm x kk => "SNE " ++ regName x ++ "," ++ hexByte kk
  | .seReg x y => "SE " ++ regName x ++ "," ++ regName y
  | .ldImm x kk => "LD " ++ regName x ++ "," ++ hexByte kk
  | .addImm x kk => "ADD " ++ regName x ++ "," ++ hexByte kk
  | .ldReg x y => "LD " ++ regName x ++ "," ++ regName y
  | .orReg x y => "OR " ++ regName x ++ "," ++ regName y
  | .andReg x y => "AND " ++ regName x ++ "," ++ regName y
  | .xorReg x y => "XOR " ++ regName x ++ "," ++ regName y
  | .addReg x y => "ADD " ++ regName x ++ "," ++ regName y
  | .subReg x y => "SUB " ++ regName x ++ "," ++ regName y
  | .shr x => "SHR " ++ regName x
  | .subnReg x y => "SUBN " ++ regName x ++ "," ++ regName y
  | .shl x => "SHL " ++ regName x
  | .sneReg x y => "SNE " ++ regName x ++ "," ++ regName y
  | .ldI nnn => "LD I," ++ hexAddr nnn
  | .jpV0 nnn => "JP V0," ++ hexAddr nnn
  | .rnd x kk => "RND " ++ regName x ++ "," ++ hexByte kk
  | .drw x y n => "DRW " ++ regName x ++ "," ++ regName y ++ "," ++ toString n
  | .skp x => "SKP " ++ regName x
  | .sknp x => "SKNP " ++ regName x
  | .ldVxDt x => "LD " ++ regName x ++ ",DT"
  | .ldVxK x => "LD " ++ regName x ++ ",K"
  | .ldDtVx x => "LD DT," ++ regName x
  | .ldStVx x => "LD ST," ++ regName x
  | .addI x => "ADD I," ++ regName x
  | .ldF x => "LD F," ++ regName x
  | .ldB x => "LD B," ++ regName x
  | .stRegs x => "LD [I]," ++ regName x
  | .ldRegs x => "LD " ++ regName x ++ ",[I]"

end Sys2Proof.Machine
end

