-- ==== Sys2Proof/Machine/Reset.lean ====
section
/-! DEFINITION. Reset with a configuration and a program image (10_state.md R41, R44;
70_reset_and_hazards.md R290, R291). -/

namespace Sys2Proof.Machine

/-- Every field at its reset value, with no program byte copied yet. -/
def State.cleared (c : Config) : State where
  cfg := c
  v := Vector.replicate 16 0
  i := 0
  pc := BitVec.ofNat 17 Config.progBase
  stack := List.replicate c.stackDepth 0
  sp := 0
  dt := 0
  st := 0
  mem := []
  fb := []
  keys := 0
  prevKeys := 0
  mode := .running
  pendingReg := 0
  stopReason := none
  redraw := false
  tone := false
  diag := none
  rndIn := 0
  inputs := []
  freeDrawn := 0

/-- The state after a load error: STOPPED with LOAD_ERROR from the start and no image in Memory (R291,
60_exceptions.md R268). The diagnostic has the image's length where there is an image (R260).
notes/assumptions/6.md. -/
def State.loadError (c : Config) (length : Option Nat) : State :=
  { State.cleared c with
    mode := .stopped
    stopReason := some (.fatal .loadError)
    diag := some { kind := .loadError, word := none, pc := none, addr := none, length := length } }

/-- Reset (R290): the image is copied to 0x200 on. An image longer than MEM_SIZE - 0x200 is not loaded
but a load error (R291, R268). -/
def State.resetWith (c : Config) (image : List Byte) : State :=
  if c.memSize - Config.progBase < image.length then
    State.loadError c (some image.length)
  else (State.cleared c).putBytes Config.progBase image

/-- What the loader hands to reset: a program image (10_state.md R44), or word that the file is "missing"
or "unreadable" (60_exceptions.md R268). -/
inductive LoadInput where
  | image (bytes : List Byte)
  | failed
  deriving DecidableEq, Repr

/-- Reset with what the loader hands over: its failures "reach it as the same LOAD_ERROR" (R268, D40). -/
def State.resetLoad (c : Config) : LoadInput → State
  | .image bytes => State.resetWith c bytes
  | .failed => State.loadError c none

end Sys2Proof.Machine
end

