-- ==== Sys2Proof/Machine/Flags.lean ====
section
/-! DEFINITION. The flags: every one is a byte 0 or 1 written to VF as the instruction's last effect,
computed from the operands' values before the instruction (10_state.md R21, R35; 42_register_alu.md
R162, R163). -/

namespace Sys2Proof.Machine

/-- A flag as the byte VF receives. -/
def flagByte (f : Bool) : Byte := if f then 1 else 0

/-- Carry of ADD Vx,Vy: the unbounded sum exceeds 255 (R156). -/
def carry (a b : Byte) : Bool := decide (255 < a.toNat + b.toNat)

/-- No borrow of `a - b`: `a >= b` (R157, R158). -/
def noBorrow (a b : Byte) : Bool := decide (b.toNat ≤ a.toNat)

/-- The bit SHR shifts out: old bit 0 (R159). -/
def shiftedOutRight (a : Byte) : Bool := a.getLsbD 0

/-- The bit SHL shifts out: old bit 7 (R160). -/
def shiftedOutLeft (a : Byte) : Bool := a.getLsbD 7

/-- Write the result to Vx and then the flag to VF: with x = F the flag wins (R163). -/
def State.setRegFlag (s : State) (x : Reg) (result : Byte) (f : Bool) : State :=
  (s.setReg x result).setReg Reg.vf (flagByte f)

end Sys2Proof.Machine
end

