-- ==== Sys2Proof/Machine/Control.lean ====
section
/-! DEFINITION. Control flow (41_control_flow.md) and the HALT sentinel (40_engine_cycle.md R104). -/

namespace Sys2Proof.Machine

/-- HALT (R104): a normal stop; PC stays at the 0x0000 word. -/
def execHalt (s : State) : Result := .next (s.stop .halt)

/-- RET (R130). -/
def execRet (s : State) : Result :=
  if s.sp = 0 then .next (s.fatal .stackUnderflow (some (encode .ret)) none)
  else .next { s with sp := s.sp - 1, pc := s.stack.getD (s.sp - 1) 0 }

/-- JP addr (R131). -/
def execJp (nnn : Addr) (s : State) : Result := .next (s.jump nnn.toWord.toPc)

/-- CALL addr (R132). -/
def execCall (nnn : Addr) (s : State) : Result :=
  if s.cfg.stackDepth ≤ s.sp then .next (s.fatal .stackOverflow (some (encode (.call nnn))) none)
  else .next { s with stack := s.stack.set s.sp (s.pc + 2), sp := s.sp + 1, pc := nnn.toWord.toPc }

/-- SE Vx,kk (R133). -/
def execSeImm (x : Reg) (kk : Byte) (s : State) : Result := .next (s.skipIf (s.reg x == kk))

/-- SNE Vx,kk (R134). -/
def execSneImm (x : Reg) (kk : Byte) (s : State) : Result := .next (s.skipIf (s.reg x != kk))

/-- SE Vx,Vy (R135). -/
def execSeReg (x y : Reg) (s : State) : Result := .next (s.skipIf (s.reg x == s.reg y))

/-- SNE Vx,Vy (R136). -/
def execSneReg (x y : Reg) (s : State) : Result := .next (s.skipIf (s.reg x != s.reg y))

/-- JP V0,addr (R137): the sum is not masked. -/
def execJpV0 (nnn : Addr) (s : State) : Result :=
  .next (s.jump (nnn.toWord.toPc + (s.reg 0).setWidth 17))

end Sys2Proof.Machine
end

