-- ==== Sys2Proof/Machine/Operands.lean ====
section
/-! DEFINITION. The operand forms: the single addressing mode "I plus a constant offset" with its range
check (43_index_memory.md, 20_memory.md R61, 60_exceptions.md R262), glyph addresses, decimal digits
and key operands. -/

namespace Sys2Proof.Machine

namespace State

/-- Whether the access I .. I+len-1 reaches an address at or above MEM_SIZE; an access of length 0
reaches none (R262). Addresses are unbounded naturals (R61). -/
def outside (s : State) (len : Nat) : Bool := decide (0 < len ∧ s.cfg.memSize < s.i.toNat + len)

/-- The first out-of-range address of an access at I that is outside (R183, R184, R185, R201, R260). -/
def firstOutside (s : State) : Nat := max s.i.toNat s.cfg.memSize

/-- Run `effect` if the access I .. I+len-1 of instruction `i` lies in Memory, else raise DATA_BOUNDS
with nothing done (R262). The recorded word is that of `i`. -/
def access (s : State) (i : Instr) (len : Nat) (effect : State → State) : Result :=
  if s.outside len then .next (s.fatal .dataBounds (some (encode i)) (some s.firstOutside))
  else .next (effect s)

/-- `FONT_BASE + 5 * d` as the 16-bit value of I; the full byte is used (43_index_memory.md R182). -/
def glyphAddr (s : State) (d : Byte) : Word := BitVec.ofNat 16 (s.cfg.fontBase + 5 * d.toNat)

/-- `v <= 0xF and Keys[v]`: a value above 0xF names no key (45_timers_keys.md R224). -/
def keyDown (s : State) (k : Byte) : Bool := decide (k.toNat ≤ 0xF) && s.keys.getLsbD k.toNat

/-- The pressed keys of R227: under LEVEL those down, under EDGE those newly down. -/
def pressed (s : State) : Word :=
  match s.cfg.keyTrigger with
  | .level => s.keys
  | .edge => s.keys &&& ~~~s.prevKeys

end State

/-- The smallest key of a vector of pressed keys, if any (R227). -/
def lowestKey (pressed : Word) : Option Nat := (List.range 16).find? (fun k => pressed.getLsbD k)

/-- Hundreds, tens and ones of a byte (43_index_memory.md R183). -/
def decimalDigits (v : Byte) : List Byte :=
  [BitVec.ofNat 8 (v.toNat / 100), BitVec.ofNat 8 (v.toNat / 10 % 10), BitVec.ofNat 8 (v.toNat % 10)]

end Sys2Proof.Machine
end

