-- ==== Sys2Proof/Machine/Display.lean ====
section
/-! DEFINITION. The display instructions (44_display.md). -/

namespace Sys2Proof.Machine

/-- CLS (R200). -/
def execCls (s : State) : Result := .next ({ s with fb := [] }).next

/-- The draw of DRW Vx,Vy,n: coordinates, I and sprite bytes are those before the instruction (R201). -/
def State.drawn (s : State) (x y : Reg) (n : Nat) : Drawing :=
  s.fb.draw s.cfg (s.reg x).toNat (s.reg y).toNat (s.bytes s.i.toNat n)

/-- DRW Vx,Vy,n (R201): the collision flag is the last effect. -/
def execDrw (x y : Reg) (n : Nat) (s : State) : Result :=
  s.access (.drw x y n) n fun s =>
    ({ s with fb := (s.drawn x y n).fb }.setReg Reg.vf (flagByte (s.drawn x y n).collision)).next

end Sys2Proof.Machine
end

