-- ==== Sys2Proof/Machine/Index.lean ====
section
/-! DEFINITION. Index register and memory transfers (43_index_memory.md). -/

namespace Sys2Proof.Machine

/-- LD I,addr (R180). -/
def execLdI (nnn : Addr) (s : State) : Result := .next ({ s with i := nnn.toWord }).next

/-- ADD I,Vx (R181): the sum wraps at the 16 bits of I; VF is not changed. -/
def execAddI (x : Reg) (s : State) : Result :=
  .next ({ s with i := s.i + (s.reg x).setWidth 16 }).next

/-- LD F,Vx (R182). -/
def execLdF (x : Reg) (s : State) : Result := .next ({ s with i := s.glyphAddr (s.reg x) }).next

/-- LD B,Vx (R183). -/
def execLdB (x : Reg) (s : State) : Result :=
  s.access (.ldB x) 3 fun s => (s.putBytes s.i.toNat (decimalDigits (s.reg x))).next

/-- LD [I],Vx (R184): V0 to Vx, inclusive. -/
def execStRegs (x : Reg) (s : State) : Result :=
  s.access (.stRegs x) (x.toNat + 1) fun s =>
    (s.putBytes s.i.toNat (s.firstRegs (x.toNat + 1))).next

/-- LD Vx,[I] (R185): V0 to Vx, inclusive. -/
def execLdRegs (x : Reg) (s : State) : Result :=
  s.access (.ldRegs x) (x.toNat + 1) fun s => (s.loadRegs s.i.toNat (x.toNat + 1)).next

end Sys2Proof.Machine
end

