-- ==== Sys2Proof/Machine/TimersKeys.lean ====
section
/-! DEFINITION. Timer and key instructions (45_timers_keys.md). -/

namespace Sys2Proof.Machine

/-- LD Vx,DT (R221). -/
def execLdVxDt (x : Reg) (s : State) : Result := .next (s.setReg x s.dt).next

/-- LD DT,Vx (R222). -/
def execLdDtVx (x : Reg) (s : State) : Result := .next ({ s with dt := s.reg x }).next

/-- LD ST,Vx (R223). -/
def execLdStVx (x : Reg) (s : State) : Result := .next ({ s with st := s.reg x }).next

/-- SKP Vx (R224). -/
def execSkp (x : Reg) (s : State) : Result := .next (s.skipIf (s.keyDown (s.reg x)))

/-- SKNP Vx (R225). -/
def execSknp (x : Reg) (s : State) : Result := .next (s.skipIf (!s.keyDown (s.reg x)))

/-- LD Vx,K (R226): the wait begins; PC still holds the address of this word. -/
def execLdVxK (x : Reg) (s : State) : Result :=
  .next { s with mode := .awaitingKey, pendingReg := x }

end Sys2Proof.Machine
end

