-- ==== Sys2Proof/Machine/Tick.lean ====
section
/-! DEFINITION. The tick, the machine's only step (40_engine_cycle.md R100), phase by phase, and the
outputs (10_state.md R46). -/

namespace Sys2Proof.Machine

namespace State

/-- The inputs of the next tick (10_state.md R45): the first scheduled ones.
With none scheduled: keys as they are, no quit, no timer strobe, and a free random byte.
DESIGN CHOICE, notes/assumptions/3.md. -/
def input (s : State) : TickInput :=
  match s.inputs with
  | head :: _ => head
  | [] => { keys := s.keys, quit := false, strobe := false, rnd := Config.freeRndIn s.freeDrawn }

/-- The start of a tick that is not STOPPED (R100, R101): redraw and diag are cleared, KeyState moves to
PrevKeys and is replaced by keys_in, and the inputs are taken off the schedule. -/
def refresh (s : State) : State :=
  { s with
    redraw := false
    diag := none
    prevKeys := s.keys
    keys := s.input.keys
    rndIn := s.input.rnd
    inputs := s.inputs.tail
    freeDrawn := if s.inputs.isEmpty then s.freeDrawn + 1 else s.freeDrawn }

/-- `timer_decrement()` (45_timers_keys.md R220). -/
def decrementTimers (s : State) : State :=
  { s with
    dt := if s.dt = 0 then 0 else s.dt - 1
    st := if s.st = 0 then 0 else s.st - 1 }

/-- The tick up to the fetch or the key-wait check: refresh, then the timers on a strobe (R100). -/
def begin (s : State) : State :=
  if s.input.strobe then s.refresh.decrementTimers else s.refresh

/-- `await_key_step()` (R227). -/
def awaitKey (s : State) : State :=
  match lowestKey s.pressed with
  | some k =>
    { (s.setReg s.pendingReg (BitVec.ofNat 8 k)) with pc := s.pc + 2, mode := .running }
  | none => s

/-- `fetch(PC)` (R102): the big-endian word at PC, or none where PC + 1 leaves Memory. -/
def fetch (s : State) : Option Word :=
  if s.cfg.memSize ≤ s.pc.toNat + 1 then none
  else some (wordOfBytes (s.byte s.pc.toNat) (s.byte (s.pc.toNat + 1)))

/-- The tone output at the end of a tick (45_timers_keys.md R228). -/
def toneNow (s : State) : Bool := decide (s.mode ≠ .stopped) && decide (0 < s.st.toNat)

/-- The end of a tick that fetched (R100, R107): redraw unless the engine stopped, and the tone. -/
def finish (s : State) : State :=
  { s with redraw := decide (s.mode ≠ .stopped), tone := s.toneNow }

/-- A tick in STOPPED: the outputs are driven, the state does not change (R109). -/
def stoppedTick (s : State) : State := { s with redraw := false, tone := false, diag := none }

/-- The tick in which the quit signal arrives (R100, R101): neither timers nor an instruction are touched. -/
def quitTick (s : State) : State := { (s.refresh.stop .quit) with tone := false }

/-- A tick of the key wait (R100, R108). -/
def awaitTick (s : State) : State :=
  let t := s.begin.awaitKey
  { t with tone := t.toneNow }

/-- Fetch, decode and execute (R102, R103). -/
def runWord (s : State) : Result :=
  match s.fetch with
  | none => .next (s.fatal .fetchBounds none none)
  | some w =>
    match decodeWord s.cfg w with
    | .instr i => exec i s
    | .unrecognized w => .next (s.unrecognized w)

end State

/-- Apply the end of the tick to a next state; a fault or a refusal stays. -/
def finishResult : Result → Result
  | .next t => .next t.finish
  | .fault f => .fault f
  | .refused r => .refused r

/-- `tick` (R100). Priority (60_exceptions.md R269) is the order written here. -/
def tick (s : State) : Result :=
  match s.mode with
  | .stopped => .next s.stoppedTick
  | .awaitingKey => if s.input.quit then .next s.quitTick else .next s.awaitTick
  | .running => if s.input.quit then .next s.quitTick else finishResult s.begin.runWord

/-- The state with a word placed where the next tick fetches, and the mode and quit input such that it
does fetch: Mode RUNNING and no quit in the next inputs. PC and everything else stay.
notes/assumptions/5.md. -/
def State.placeWord (s : State) (w : Word) : State :=
  { (s.putBytes s.pc.toNat (bytesOfWord w)) with
    mode := .running
    inputs := match s.inputs with
      | [] => []
      | head :: rest => { head with quit := false } :: rest }

end Sys2Proof.Machine
end

