-- ==== Sys2Proof/Machine/Step.lean ====
section
/-! DEFINITION. One step of the machine is one tick (00_scope.md R8). -/

namespace Sys2Proof.Machine

/-- One tick (40_engine_cycle.md R100). -/
def step (s : State) : Host.Outcome State Fault Refusal := tick s

/-- `s` with a table word stored where the next step fetches. -/
def State.withFetchWord (s : State) (nbits w : Nat) : State := s.placeWord (tableWord nbits w)

end Sys2Proof.Machine
end

