-- ==== Sys2Proof/Safety.lean ====
section
/-! DEFINITION. The terms claims are made in: the invariant of the machine, what a fatal stop leaves,
and which parts of the state two states share. -/

namespace Sys2Proof.Machine

namespace State

/-- The CallStack: STACK_DEPTH entries, SP at most STACK_DEPTH, and every return address it holds at most
MEM_SIZE (10_state.md R24, R25). -/
abbrev stackOk (s : State) : Prop :=
  s.stack.length = s.cfg.stackDepth ∧ s.sp ≤ s.cfg.stackDepth ∧
    ∀ k, k < s.sp → (s.stack.getD k 0).toNat ≤ s.cfg.memSize

/-- The range of PC (R24), and that a waiting engine holds a PC it fetched from (45_timers_keys.md R226). -/
abbrev pcOk (s : State) : Prop :=
  s.pc.toNat ≤ max 0x10FE (s.cfg.memSize + 2) ∧
    (s.mode = .awaitingKey → s.pc.toNat + 2 ≤ s.cfg.memSize)

/-- StopReason is there exactly when the engine is STOPPED (R34). -/
abbrev modeOk (s : State) : Prop := s.mode = .stopped ↔ s.stopReason.isSome = true

/-- The outputs at the end of a tick: tone is 1 exactly when ST > 0 and Mode is not STOPPED, and redraw
is not 1 in STOPPED (R107, R228). -/
abbrev outputsOk (s : State) : Prop :=
  (s.tone = true ↔ 0 < s.st.toNat ∧ s.mode ≠ .stopped) ∧ (s.redraw = true → s.mode ≠ .stopped)

/-- The invariant of the machine between ticks. -/
abbrev Inv (s : State) : Prop :=
  s.cfg.wf ∧ Memory.wf s.cfg s.mem ∧ Framebuffer.wf s.cfg s.fb ∧ s.stackOk ∧ s.pcOk ∧ s.modeOk ∧
    s.outputsOk

/-- No fatal condition has stopped the machine: it runs, waits, or stopped by quit or HALT. -/
abbrev Safe (s : State) : Prop := ∀ kind, s.stopReason ≠ some (.fatal kind)

end State

/-- The parts of a state that a frame names. -/
inductive Part where
  | cfg
  | regs
  | index
  | pc
  | stack
  | dt
  | st
  | memory
  | pixels
  | keys
  | prevKeys
  | mode
  | pendingReg
  | stopReason
  | redraw
  | tone
  | diag
  | rndIn
  | inputs
  | freeDrawn
  deriving DecidableEq, Repr

/-- Part `p` is the same in `t` as in `s`: every register, every byte, every pixel of it. -/
def Unchanged (s t : State) : Part → Prop
  | .cfg => t.cfg = s.cfg
  | .regs => ∀ r, t.reg r = s.reg r
  | .index => t.i = s.i
  | .pc => t.pc = s.pc
  | .stack => t.sp = s.sp ∧ ∀ k : Nat, t.stack[k]? = s.stack[k]?
  | .dt => t.dt = s.dt
  | .st => t.st = s.st
  | .memory => ∀ a, t.byte a = s.byte a
  | .pixels => ∀ x y, t.pixel x y = s.pixel x y
  | .keys => t.keys = s.keys
  | .prevKeys => t.prevKeys = s.prevKeys
  | .mode => t.mode = s.mode
  | .pendingReg => t.pendingReg = s.pendingReg
  | .stopReason => t.stopReason = s.stopReason
  | .redraw => t.redraw = s.redraw
  | .tone => t.tone = s.tone
  | .diag => t.diag = s.diag
  | .rndIn => t.rndIn = s.rndIn
  | .inputs => t.inputs = s.inputs
  | .freeDrawn => t.freeDrawn = s.freeDrawn

/-- Every part but the listed ones is unchanged from `s` to `t`. -/
def Frame (s t : State) (changed : List Part) : Prop := ∀ p, p ∉ changed → Unchanged s t p

/-- What a fatal condition leaves (60_exceptions.md R266): Mode STOPPED, the reason, the diagnostic with
the PC of the faulting instruction, redraw, tone and exit_ok 0, stopped 1, and everything else as it was. -/
def FatalStop (s t : State) (kind : FatalKind) (word : Option Word) (addr : Option Nat) : Prop :=
  t.mode = .stopped ∧ t.stopReason = some (.fatal kind) ∧
    t.diag = some { kind := kind, word := word, pc := some s.pc, addr := addr, length := none } ∧
    t.redraw = false ∧ t.tone = false ∧ t.stopped = true ∧ t.exitOk = some false ∧
    Frame s t [.mode, .stopReason, .diag, .redraw, .tone]

/-- How many 1 bits of the sprite of DRW Vx,Vy,n fall on the pixel (p, q), counting wrapped ones
(44_display.md R201). -/
def spriteHits (s : State) (x y : Reg) (n p q : Nat) : Nat :=
  ((List.range n).map fun r =>
    ((List.range 8).filter fun k =>
      (s.byte (s.i.toNat + r)).getLsbD (7 - k) && ((s.reg x).toNat + k) % s.cfg.fbW == p &&
        ((s.reg y).toNat + r) % s.cfg.fbH == q).length).sum

/-- `t` is `s` but for CallStack entries at and above SP, which hold no meaning (R25). -/
def SameButStaleStack (s t : State) : Prop :=
  t = { s with stack := t.stack } ∧ t.stack.length = s.stack.length ∧
    ∀ k, k < s.sp → t.stack.getD k 0 = s.stack.getD k 0

end Sys2Proof.Machine
end

