-- ==== Sys2Proof/Certificates/Slice0/Obligations.lean ====
section
/-! DEFINITION. The statements about the machine, from the numbered rules of spec/. A frame
`Frame s t parts` says that everything but the listed parts is unchanged (Sys2Proof/Safety.lean). -/

open Sys2Proof Sys2Proof.Machine

/-! ### Encoding -/

/-- Words written out from the encodings of 30_encoding.md R85, one of every format. The patterns are the
spec's decision D2 (notes/assumptions/1.md). -/
def Obligations.DocumentedWordsDecode : Prop :=
  ∀ c : Config,
    decodeWord c 0x00E0 = .instr .cls ∧ decodeWord c 0x00EE = .instr .ret ∧
    decodeWord c 0x1234 = .instr (.jp 0x234) ∧ decodeWord c 0xB123 = .instr (.jpV0 0x123) ∧
    decodeWord c 0x63AB = .instr (.ldImm 3 0xAB) ∧ decodeWord c 0x8127 = .instr (.subnReg 1 2) ∧
    decodeWord c 0x8AB6 = .instr (.shr 0xA) ∧ decodeWord c 0xD12F = .instr (.drw 1 2 15) ∧
    decodeWord c 0xE5A1 = .instr (.sknp 5) ∧ decodeWord c 0xF165 = .instr (.ldRegs 1) ∧
    decodeWord c 0x5121 = .unrecognized 0x5121 ∧ decodeWord c 0x0123 = .unrecognized 0x0123

/-- Decoding the word of a well-formed instruction gives that instruction, with every operand, under every
configuration. -/
def Obligations.DecodeInvertsEncode : Prop :=
  ∀ (c : Config) (i : Instr), WellFormed c i = true → decodeWord c (encode i) = .instr i

/-- Whatever a word decodes to is well formed, and encodes back to that word; only SHR and SHL have an
ignored field, y (30_encoding.md R88, D14 and D16). That their encoding is the word with y written as 0 is
the model's choice of an encoder, not the spec's (notes/assumptions/13.md). -/
def Obligations.DecodedInstructionEncodesBack : Prop :=
  ∀ (c : Config) (w : Word) (i : Instr), decodeWord c w = .instr i →
    WellFormed c i = true ∧
      (encode i = w ∨ ((∃ x, i = .shr x ∨ i = .shl x) ∧ encode i = w &&& 0xFF0F))

/-- The UNRECOGNIZED words are exactly those 30_encoding.md R87 lists, class by class (D16). -/
def Obligations.UnrecognizedWordsAreThoseListed : Prop :=
  ∀ (c : Config) (w : Word),
    decodeWord c w = .unrecognized w ↔
      (w < 0x1000 ∧ w ≠ 0x00E0 ∧ w ≠ 0x00EE ∧ ¬(w = 0 ∧ c.zeroWordHalt = true)) ∨
      (w &&& 0xF000 = 0x5000 ∧ w &&& 0xF ≠ 0) ∨
      (w &&& 0xF000 = 0x8000 ∧ w &&& 0xF ∈ [0x8#16, 0x9, 0xA, 0xB, 0xC, 0xD, 0xF]) ∨
      (w &&& 0xF000 = 0x9000 ∧ w &&& 0xF ≠ 0) ∨
      (w &&& 0xF000 = 0xE000 ∧ w &&& 0xFF ∉ [0x9E#16, 0xA1]) ∨
      (w &&& 0xF000 = 0xF000 ∧
        w &&& 0xFF ∉ [0x07#16, 0x0A, 0x15, 0x18, 0x1E, 0x29, 0x33, 0x55, 0x65])

/-- No word matches two of the 35 rows of the opcode map (R85): at most one of the 34 rows that opcodeMap
holds, and none of these by 0x0000, the only word of the HALT row, which decodeWord tests before the map. -/
def Obligations.NoWordSelectsTwoRows : Prop :=
  (∀ w : Word, (opcodeMap.filter fun r => r.selects w).length ≤ 1) ∧
    ∀ r ∈ opcodeMap, r.selects 0x0000 = false

/-! ### Reset -/

/-- Reset with an image that fits: every register, the stack, the timers, the pixels, the keys and Mode at
the values of 10_state.md R41, and in Memory the glyphs, the image from 0x200 on and 0x00 elsewhere. V, I,
stack entries, keys and other memory at 0 are the spec's decisions D8 to D10 (notes/assumptions/7.md). -/
def Obligations.ResetLoadsImageAndClearsState : Prop :=
  ∀ (c : Config) (image : List Byte), c.wf → image.length ≤ c.memSize - 0x200 →
    let s := State.resetWith c image
    s.cfg = c ∧ s.pc = 0x200 ∧ s.sp = 0 ∧ s.dt = 0 ∧ s.st = 0 ∧ (∀ r, s.reg r = 0) ∧ s.i = 0 ∧
      s.stack.length = c.stackDepth ∧ (∀ e ∈ s.stack, e = 0) ∧ (∀ x y, s.pixel x y = false) ∧
      s.keys = 0 ∧ s.prevKeys = 0 ∧ s.mode = .running ∧ s.pendingReg = 0 ∧ s.stopReason = none ∧
      s.tone = false ∧
      ∀ a, s.byte a =
        if 0x200 ≤ a ∧ a < 0x200 + image.length then image.getD (a - 0x200) 0
        else if c.fontBase ≤ a ∧ a < c.fontBase + 80 then c.font.getD (a - c.fontBase) 0
        else 0

/-- An image longer than MEM_SIZE - 0x200 is not loaded: the machine is STOPPED by LOAD_ERROR from the
start, with exit_ok 0, and the next tick leaves everything but diag (70_reset_and_hazards.md R291,
60_exceptions.md R268, D40; for all later ticks, StoppedIsFinal). R291 says only that the image is not
loaded: that every byte has its reset value, the glyphs among them, is the model's choice
(notes/assumptions/6.md), and so is that the tick leaves the schedule of inputs (notes/assumptions/32.md). -/
def Obligations.OversizedImageStopsWithLoadError : Prop :=
  ∀ (c : Config) (image : List Byte), c.memSize - 0x200 < image.length →
    let s := State.resetWith c image
    s.mode = .stopped ∧ s.stopReason = some (.fatal .loadError) ∧ s.exitOk = some false ∧
      (∀ a, s.byte a = resetByte c a) ∧
      ∃ t, step s = .next t ∧ t.stopReason = some (.fatal .loadError) ∧ Frame s t [.diag]

/-! ### Invariants of the whole machine -/

/-- The invariant holds after reset, with any configuration and any image (the default machine among them).
-/
def Obligations.InvariantHoldsAtReset : Prop :=
  State.reset.Inv ∧ ∀ (c : Config) (image : List Byte), c.wf → (State.resetWith c image).Inv

/-- Every tick keeps the invariant, from every state that meets it: the configuration stays legal, Memory
and the Framebuffer canonical (notes/assumptions/11.md) and inside their bounds, SP within the stack, return
addresses and PC within the range of 10_state.md R24, a waiting engine at a fetched PC, StopReason present
exactly in STOPPED, and tone 1 exactly when ST > 0 outside STOPPED. -/
def Obligations.EveryTickKeepsTheInvariant : Prop :=
  ∀ s t : State, s.Inv → step s = .next t → t.Inv

/-- With MEM_SIZE at most 0xFFFD, PC fits in 16 bits in every state a run reaches (10_state.md R24, the
spec's derivation; the model's 17th bit of PC, notes/assumptions/2.md, is then never 1). -/
def Obligations.ProgramCounterFitsSixteenBits : Prop :=
  ∀ (n : Nat) (s t : State), s.Inv → s.cfg.memSize ≤ 0xFFFD → core.run n s = .next t →
    t.pc.toNat < 0x10000

/-- Every tick, from every state, answers a next state: no fault, no refusal (30_encoding.md R84,
40_engine_cycle.md R100, R111). That a fatal condition is a next state, in STOPPED, is the model's reading
of 60_exceptions.md R266 (notes/assumptions/31.md). -/
def Obligations.EveryTickAnswersNext : Prop := ∀ s : State, ∃ t, step s = .next t

/-- No run of ticks changes the configuration (10_state.md R42, D17). -/
def Obligations.ConfigurationIsFixedForARun : Prop :=
  ∀ (n : Nat) (s t : State), core.run n s = .next t → t.cfg = s.cfg

/-- STOPPED is final: any number of ticks leaves every part of the state as it was, with redraw and tone 0
and no diagnostic (40_engine_cycle.md R109, D39). That the model's own fields, the schedule of inputs, rndIn
and freeDrawn, stay too is the model's choice (notes/assumptions/32.md). -/
def Obligations.StoppedIsFinal : Prop :=
  ∀ (n : Nat) (s : State), s.mode = .stopped →
    ∃ t, core.run (n + 1) s = .next t ∧ t.stopped = true ∧ t.exitOk = s.exitOk ∧
      t.redraw = false ∧ t.tone = false ∧ t.diag = none ∧ Frame s t [.redraw, .tone, .diag]

/-- CallStack entries at and above SP are never observable: two states that differ only there take every
tick to states that differ only there (10_state.md R25, D32; 93_implementation_defined.md S16). -/
def Obligations.StaleStackEntriesAreUnobservable : Prop :=
  ∀ s s' t : State, SameButStaleStack s s' → step s = .next t →
    ∃ t', step s' = .next t' ∧ SameButStaleStack t t'

/-- Two canonical memories that read the same at every address are the same list. The list is the model's
own form of 10_state.md R28 (notes/assumptions/11.md). -/
def Obligations.CanonicalMemoryIsUnique : Prop :=
  ∀ (c : Config) (m m' : Memory), Memory.wf c m → Memory.wf c m' →
    (∀ a, Memory.read c m a = Memory.read c m' a) → m = m'

/-! ### The tick -/

/-- A step runs the decoded instruction: in RUNNING, with no quit and PC + 1 inside Memory, the word is
M[PC] ++ M[PC+1], and if it decodes to `i` the step is `exec i` of the state after the tick's refresh and
timers, followed by the end of the tick (40_engine_cycle.md R100, R102, R103; D1, D19). -/
def Obligations.StepRunsTheDecodedInstruction : Prop :=
  ∀ (s : State) (i : Instr), s.mode = .running → s.input.quit = false →
    s.pc.toNat + 1 < s.cfg.memSize →
    decodeWord s.cfg (s.byte s.pc.toNat ++ s.byte (s.pc.toNat + 1)) = .instr i →
    step s = finishResult (exec i s.begin)

/-- What a tick does before the fetch: KeyState becomes keys_in and moves to PrevKeys, the random byte is
sampled, redraw and diag are cleared, and on a strobe each timer above 0 counts down by 1 and a timer at 0
stays (R101; 45_timers_keys.md R220; D27, D31). Nothing else changes. That the inputs come from a schedule
is the model's own (notes/assumptions/3.md). -/
def Obligations.TickBeginsWithKeysAndTimers : Prop :=
  ∀ s : State,
    s.begin.keys = s.input.keys ∧ s.begin.prevKeys = s.keys ∧ s.begin.rndIn = s.input.rnd ∧
      s.begin.inputs = s.inputs.tail ∧ s.begin.redraw = false ∧ s.begin.diag = none ∧
      s.begin.dt.toNat = s.dt.toNat - (if s.input.strobe then 1 else 0) ∧
      s.begin.st.toNat = s.st.toNat - (if s.input.strobe then 1 else 0) ∧
      Frame s s.begin
        [.keys, .prevKeys, .rndIn, .inputs, .redraw, .diag, .dt, .st, .freeDrawn]

/-- At the end of every tick, tone is 1 exactly when ST > 0 and Mode is not STOPPED (45_timers_keys.md R228,
D28), and redraw is 1 exactly when the tick began in RUNNING, no quit arrived and it did not end in STOPPED
(40_engine_cycle.md R107, D29). -/
def Obligations.TickEndsWithToneAndRedraw : Prop :=
  ∀ s t : State, step s = .next t →
    (t.tone = true ↔ 0 < t.st.toNat ∧ t.mode ≠ .stopped) ∧
    (t.redraw = true ↔ s.mode = .running ∧ s.input.quit = false ∧ t.mode ≠ .stopped)

/-- A tick drives a diagnostic only if it began in RUNNING and either stopped by the fatal condition the
diagnostic names, or executed an UNRECOGNIZED word under LENIENT (40_engine_cycle.md R110, D36). It carries
the PC of the tick's fetch, the fetched word, or none where the fetch failed, the first out-of-range address
for DATA_BOUNDS and none otherwise (60_exceptions.md R260, R267), and no image length. The kind
UNRECOGNIZED_OPCODE names only a fetched word that is UNRECOGNIZED, under either policy. -/
def Obligations.DiagnosticsNameTheirCause : Prop :=
  ∀ (s t : State) (d : Diag), step s = .next t → t.diag = some d →
    s.mode = .running ∧ d.pc = some s.pc ∧ d.word = s.fetch ∧
      d.addr = (if d.kind = .dataBounds then some (max s.i.toNat s.cfg.memSize) else none) ∧
      d.length = none ∧
      (d.kind = .unrecognizedOpcode →
        ∃ w, s.fetch = some w ∧ decodeWord s.cfg w = .unrecognized w) ∧
      (t.stopReason = some (.fatal d.kind) ∨
        (d.kind = .unrecognizedOpcode ∧ s.cfg.unknownOpcode = .lenient ∧ t.mode = .running))

/-- FETCH_BOUNDS: in RUNNING with no quit, a PC whose 2-byte fetch would reach an address at or above
MEM_SIZE stops the engine, with no word recorded and PC kept; only the refresh and the timers of the tick
have happened (60_exceptions.md R261, R266; 40_engine_cycle.md R102; D19). -/
def Obligations.FetchOutsideMemoryIsFatal : Prop :=
  ∀ s : State, s.mode = .running → s.input.quit = false → s.cfg.memSize ≤ s.pc.toNat + 1 →
    ∃ t, step s = .next t ∧ FatalStop s.begin t .fetchBounds none none

/-- An UNRECOGNIZED word: under STRICT it is fatal; under LENIENT it is a no-op with a diagnostic, PC + 2
and a redraw (40_engine_cycle.md R105, D17). -/
def Obligations.UnrecognizedWordFollowsPolicy : Prop :=
  ∀ (s : State) (w : Word), s.mode = .running → s.input.quit = false →
    s.pc.toNat + 1 < s.cfg.memSize → w = s.byte s.pc.toNat ++ s.byte (s.pc.toNat + 1) →
    decodeWord s.cfg w = .unrecognized w →
    ∃ t, step s = .next t ∧
      (s.cfg.unknownOpcode = .strict → FatalStop s.begin t .unrecognizedOpcode (some w) none) ∧
      (s.cfg.unknownOpcode = .lenient →
        t.pc = s.pc + 2 ∧ t.redraw = true ∧
          t.diag = some ⟨.unrecognizedOpcode, some w, some s.pc, none, none⟩ ∧
          Frame s.begin t [.pc, .redraw, .diag, .tone])

/-- Quit, in RUNNING and in AWAITING_KEY: the engine is STOPPED with reason QUIT and exit_ok 1 before the
timers or any instruction are touched; only the keys were refreshed (40_engine_cycle.md R101, D31). -/
def Obligations.QuitStopsBeforeTimersAndFetch : Prop :=
  ∀ s : State, s.mode ≠ .stopped → s.input.quit = true →
    ∃ t, step s = .next t ∧ t.mode = .stopped ∧ t.stopReason = some .quit ∧ t.exitOk = some true ∧
      t.redraw = false ∧ t.tone = false ∧ t.diag = none ∧ t.keys = s.input.keys ∧
      t.prevKeys = s.keys ∧
      Frame s t [.mode, .stopReason, .redraw, .tone, .diag, .keys, .prevKeys, .rndIn, .inputs,
        .freeDrawn]

/-- A key wait without a pressed key changes nothing but what every tick does: keys and timers
(45_timers_keys.md R227, 40_engine_cycle.md R108). Pressed means down under LEVEL, and down now but not in
the tick before under EDGE (D25). -/
def Obligations.KeyWaitWithoutKeyOnlyRefreshes : Prop :=
  ∀ s : State, s.mode = .awaitingKey → s.input.quit = false →
    (∀ k, k < 16 → s.input.keys.getLsbD k = true →
      s.cfg.keyTrigger = .edge ∧ s.keys.getLsbD k = true) →
    ∃ t, step s = .next t ∧ t.mode = .awaitingKey ∧ t.pc = s.pc ∧ t.redraw = false ∧
      Frame s.begin t [.tone]

/-- The tick that completes a key wait loads the smallest pressed key into V[PendingReg], moves PC past the
Fx0A word and returns to RUNNING; it executes nothing (45_timers_keys.md R227, D25). -/
def Obligations.KeyWaitLoadsTheLowestPressedKey : Prop :=
  ∀ (s : State) (k : Nat), s.mode = .awaitingKey → s.input.quit = false → k < 16 →
    s.input.keys.getLsbD k = true →
    (s.cfg.keyTrigger = .edge → s.keys.getLsbD k = false) →
    (∀ j, j < k → s.input.keys.getLsbD j = true →
      s.cfg.keyTrigger = .edge ∧ s.keys.getLsbD j = true) →
    ∃ t, step s = .next t ∧ t.mode = .running ∧ (t.reg s.pendingReg).toNat = k ∧
      (∀ r, r ≠ s.pendingReg → t.reg r = s.reg r) ∧ t.pc = s.pc + 2 ∧ t.redraw = false ∧
      Frame s.begin t [.mode, .regs, .pc, .tone]

/-- LD Vx,DT in its tick (45_timers_keys.md R221): it reads DT after this tick's decrement; no other
register and no flag changes. -/
def Obligations.TimerReadSeesThisTicksDecrement : Prop :=
  ∀ (s : State) (x : Reg), s.mode = .running → s.input.quit = false →
    s.pc.toNat + 1 < s.cfg.memSize →
    s.byte s.pc.toNat ++ s.byte (s.pc.toNat + 1) = (0xF#4 ++ x ++ 0x07#8 : Word) →
    ∃ t, step s = .next t ∧ (t.reg x).toNat = s.dt.toNat - (if s.input.strobe then 1 else 0) ∧
      t.dt = t.reg x ∧ (∀ r, r ≠ x → t.reg r = s.reg r) ∧ t.pc = s.pc + 2 ∧
      Frame s.begin t [.regs, .pc, .redraw, .tone]

/-! ### Control flow -/

/-- HALT stops the engine normally: reason HALT, PC and everything else unchanged (40_engine_cycle.md R104,
D18). -/
def Obligations.HaltStopsNormally : Prop :=
  ∀ s : State, ∃ t, exec .halt s = .next t ∧ t.mode = .stopped ∧ t.stopReason = some .halt ∧
    t.exitOk = some true ∧ Frame s t [.mode, .stopReason]

/-- RET (41_control_flow.md R130): with SP > 0 the top entry goes to PC as it is and SP counts down; the
entry is not cleared, and a value out of range cannot be fetched from. With SP = 0 it is STACK_UNDERFLOW,
with no state change. -/
def Obligations.ReturnPopsTheStack : Prop :=
  ∀ s : State, (∀ c, decodeWord c 0x00EE = .instr .ret) ∧
    (∀ v, 0 < s.sp → s.stack[s.sp - 1]? = some v →
      ∃ t, exec .ret s = .next t ∧ t.pc = v ∧ t.sp = s.sp - 1 ∧ t.stack = s.stack ∧
        (s.cfg.memSize ≤ v.toNat + 1 → t.fetch = none) ∧ Frame s t [.pc, .stack]) ∧
    (s.sp = 0 → ∃ t, exec .ret s = .next t ∧ FatalStop s t .stackUnderflow (some 0x00EE) none)

/-- JP addr (41_control_flow.md R131): PC is nnn, odd or not, and nothing else changes; a target from which
a 2-byte fetch leaves Memory cannot be fetched from. -/
def Obligations.JumpGoesToItsAddress : Prop :=
  ∀ (nnn : Addr) (s : State), (∀ c, decodeWord c (0x1#4 ++ nnn) = .instr (.jp nnn)) ∧
    ∃ t, exec (.jp nnn) s = .next t ∧ t.pc.toNat = nnn.toNat ∧
      (s.cfg.memSize ≤ nnn.toNat + 1 → t.fetch = none) ∧ Frame s t [.pc]

/-- CALL addr (41_control_flow.md R132): PC + 2 is pushed, SP counts up and PC is nnn; the other entries
stay. With the stack full it is STACK_OVERFLOW, with no state change. -/
def Obligations.CallPushesTheReturnAddress : Prop :=
  ∀ (nnn : Addr) (s : State), (∀ c, decodeWord c (0x2#4 ++ nnn) = .instr (.call nnn)) ∧
    (s.stackOk → s.sp < s.cfg.stackDepth →
      ∃ t, exec (.call nnn) s = .next t ∧ t.stack[s.sp]? = some (s.pc + 2) ∧
        (∀ k, k ≠ s.sp → t.stack[k]? = s.stack[k]?) ∧ t.sp = s.sp + 1 ∧ t.pc.toNat = nnn.toNat ∧
        Frame s t [.pc, .stack]) ∧
    (s.sp = s.cfg.stackDepth →
      ∃ t, exec (.call nnn) s = .next t ∧ FatalStop s t .stackOverflow (some (0x2#4 ++ nnn)) none)

/-- STACK_OVERFLOW is raised by CALL when the CallStack already holds STACK_DEPTH entries; SP, the stack and
PC are unchanged (60_exceptions.md R263). -/
def Obligations.CallOnFullStackOverflows : Prop :=
  ∀ (nnn : Addr) (s : State), s.sp = s.cfg.stackDepth →
    ∃ t, exec (.call nnn) s = .next t ∧ t.mode = .stopped ∧
      t.stopReason = some (.fatal .stackOverflow) ∧ t.sp = s.sp ∧ t.stack = s.stack ∧ t.pc = s.pc

/-- STACK_UNDERFLOW is raised by RET when SP = 0; PC is unchanged (60_exceptions.md R264). -/
def Obligations.ReturnOnEmptyStackUnderflows : Prop :=
  ∀ s : State, s.sp = 0 →
    ∃ t, exec .ret s = .next t ∧ t.mode = .stopped ∧
      t.stopReason = some (.fatal .stackUnderflow) ∧ t.pc = s.pc

/-- A RET after a CALL goes to the instruction after the CALL, with SP as it was (41_control_flow.md R130,
R132). -/
def Obligations.ReturnUndoesCall : Prop :=
  ∀ (nnn : Addr) (s : State), s.stackOk → s.sp < s.cfg.stackDepth →
    ∃ t u, exec (.call nnn) s = .next t ∧ exec .ret t = .next u ∧ u.pc = s.pc + 2 ∧ u.sp = s.sp

/-- SE Vx,kk and SNE Vx,kk (41_control_flow.md R133, R134): PC + 4 when Vx equals, or does not equal, kk, PC
+ 2 otherwise; nothing else changes, and the skipped word is not looked at. -/
def Obligations.ImmediateSkips : Prop :=
  ∀ (x : Reg) (kk : Byte) (s : State),
    (∀ c, decodeWord c (0x3#4 ++ x ++ kk) = .instr (.seImm x kk) ∧
      decodeWord c (0x4#4 ++ x ++ kk) = .instr (.sneImm x kk)) ∧
    (∃ t, exec (.seImm x kk) s = .next t ∧ Frame s t [.pc] ∧
      (s.reg x = kk → t.pc = s.pc + 4) ∧ (s.reg x ≠ kk → t.pc = s.pc + 2)) ∧
    (∃ t, exec (.sneImm x kk) s = .next t ∧ Frame s t [.pc] ∧
      (s.reg x ≠ kk → t.pc = s.pc + 4) ∧ (s.reg x = kk → t.pc = s.pc + 2))

/-- SE Vx,Vy and SNE Vx,Vy (41_control_flow.md R135, R136, whose exact low nibble is decision D16): PC + 4
when the registers are equal, or differ, PC + 2 otherwise; nothing else changes. -/
def Obligations.RegisterSkips : Prop :=
  ∀ (x y : Reg) (s : State),
    (∃ t, exec (.seReg x y) s = .next t ∧ Frame s t [.pc] ∧
      (s.reg x = s.reg y → t.pc = s.pc + 4) ∧ (s.reg x ≠ s.reg y → t.pc = s.pc + 2)) ∧
    (∃ t, exec (.sneReg x y) s = .next t ∧ Frame s t [.pc] ∧
      (s.reg x ≠ s.reg y → t.pc = s.pc + 4) ∧ (s.reg x = s.reg y → t.pc = s.pc + 2))

/-- JP V0,addr (41_control_flow.md R137, D20): PC is nnn + V0, at most 0x10FE, with no wrap and no mask. -/
def Obligations.IndexedJumpAddsV0 : Prop :=
  ∀ (nnn : Addr) (s : State), ∃ t, exec (.jpV0 nnn) s = .next t ∧
    t.pc.toNat = nnn.toNat + (s.reg 0).toNat ∧ t.pc.toNat ≤ 0x10FE ∧ Frame s t [.pc]

/-! ### Register loads and ALU -/

/-- LD Vx,kk, ADD Vx,kk and LD Vx,Vy (42_register_alu.md R150, R151, R152): Vx is kk, the sum modulo 256, or
Vy; no other register changes, VF among them. -/
def Obligations.LoadsAndImmediateAdd : Prop :=
  ∀ (x y : Reg) (kk : Byte) (s : State),
    (∀ c, decodeWord c (0x6#4 ++ x ++ kk) = .instr (.ldImm x kk) ∧
      decodeWord c (0x7#4 ++ x ++ kk) = .instr (.addImm x kk) ∧
      decodeWord c (0x8#4 ++ x ++ y ++ 0x0#4) = .instr (.ldReg x y)) ∧
    (∃ t, exec (.ldImm x kk) s = .next t ∧ t.reg x = kk ∧ (∀ r, r ≠ x → t.reg r = s.reg r) ∧
      t.pc = s.pc + 2 ∧ Frame s t [.pc, .regs]) ∧
    (∃ t, exec (.addImm x kk) s = .next t ∧
      (t.reg x).toNat = ((s.reg x).toNat + kk.toNat) % 256 ∧ (∀ r, r ≠ x → t.reg r = s.reg r) ∧
      t.pc = s.pc + 2 ∧ Frame s t [.pc, .regs]) ∧
    (∃ t, exec (.ldReg x y) s = .next t ∧ t.reg x = s.reg y ∧ (∀ r, r ≠ x → t.reg r = s.reg r) ∧
      t.pc = s.pc + 2 ∧ Frame s t [.pc, .regs])

/-- OR, AND and XOR Vx,Vy, bit by bit; VF changes only as the destination (42_register_alu.md R153 to R155,
D15). -/
def Obligations.BitwiseOperations : Prop :=
  ∀ (x y : Reg) (s : State),
    (∃ t, exec (.orReg x y) s = .next t ∧
      (∀ b, (t.reg x).getLsbD b = ((s.reg x).getLsbD b || (s.reg y).getLsbD b)) ∧
      (∀ r, r ≠ x → t.reg r = s.reg r) ∧ t.pc = s.pc + 2 ∧ Frame s t [.pc, .regs]) ∧
    (∃ t, exec (.andReg x y) s = .next t ∧
      (∀ b, (t.reg x).getLsbD b = ((s.reg x).getLsbD b && (s.reg y).getLsbD b)) ∧
      (∀ r, r ≠ x → t.reg r = s.reg r) ∧ t.pc = s.pc + 2 ∧ Frame s t [.pc, .regs]) ∧
    (∃ t, exec (.xorReg x y) s = .next t ∧
      (∀ b, (t.reg x).getLsbD b = ((s.reg x).getLsbD b ^^ (s.reg y).getLsbD b)) ∧
      (∀ r, r ≠ x → t.reg r = s.reg r) ∧ t.pc = s.pc + 2 ∧ Frame s t [.pc, .regs])

/-- ADD Vx,Vy (42_register_alu.md R156, R163, D11): VF is 1 if the sum of the old values exceeds 255, else
0; Vx is the sum modulo 256 unless x = F, where the flag wins; no other register changes. -/
def Obligations.AddSetsCarryLast : Prop :=
  ∀ (x y : Reg) (s : State), ∃ t, exec (.addReg x y) s = .next t ∧
    (t.reg 15).toNat = (if 255 < (s.reg x).toNat + (s.reg y).toNat then 1 else 0) ∧
    (x ≠ 15 → (t.reg x).toNat = ((s.reg x).toNat + (s.reg y).toNat) % 256) ∧
    (∀ r, r ≠ x → r ≠ 15 → t.reg r = s.reg r) ∧ t.pc = s.pc + 2 ∧ Frame s t [.pc, .regs]

/-- SUB and SUBN Vx,Vy (42_register_alu.md R157, R158, R163, D11): VF is 1 if there is no borrow, else 0; Vx
is the difference modulo 256 unless x = F, where the flag wins; no other register changes. -/
def Obligations.SubtractSetsNoBorrowLast : Prop :=
  ∀ (x y : Reg) (s : State),
    (∃ t, exec (.subReg x y) s = .next t ∧
      (t.reg 15).toNat = (if (s.reg y).toNat ≤ (s.reg x).toNat then 1 else 0) ∧
      (x ≠ 15 → (t.reg x).toNat = ((s.reg x).toNat + 256 - (s.reg y).toNat) % 256) ∧
      (∀ r, r ≠ x → r ≠ 15 → t.reg r = s.reg r) ∧ t.pc = s.pc + 2 ∧ Frame s t [.pc, .regs]) ∧
    (∃ t, exec (.subnReg x y) s = .next t ∧
      (t.reg 15).toNat = (if (s.reg x).toNat ≤ (s.reg y).toNat then 1 else 0) ∧
      (x ≠ 15 → (t.reg x).toNat = ((s.reg y).toNat + 256 - (s.reg x).toNat) % 256) ∧
      (∀ r, r ≠ x → r ≠ 15 → t.reg r = s.reg r) ∧ t.pc = s.pc + 2 ∧ Frame s t [.pc, .regs])

/-- SHR and SHL Vx (42_register_alu.md R159, R160, R163, D11, D14): VF is the bit shifted out; Vx is halved,
or doubled modulo 256, unless x = F, where the flag wins; no other register changes. -/
def Obligations.ShiftsSetTheBitShiftedOutLast : Prop :=
  ∀ (x : Reg) (s : State),
    (∃ t, exec (.shr x) s = .next t ∧ (t.reg 15).toNat = (s.reg x).toNat % 2 ∧
      (x ≠ 15 → (t.reg x).toNat = (s.reg x).toNat / 2) ∧
      (∀ r, r ≠ x → r ≠ 15 → t.reg r = s.reg r) ∧ t.pc = s.pc + 2 ∧ Frame s t [.pc, .regs]) ∧
    (∃ t, exec (.shl x) s = .next t ∧ (t.reg 15).toNat = (s.reg x).toNat / 128 ∧
      (x ≠ 15 → (t.reg x).toNat = 2 * (s.reg x).toNat % 256) ∧
      (∀ r, r ≠ x → r ≠ 15 → t.reg r = s.reg r) ∧ t.pc = s.pc + 2 ∧ Frame s t [.pc, .regs])

/-- RND Vx,kk (42_register_alu.md R161, D33): Vx is the tick's random byte masked by kk, whatever that byte
is; VF is no flag here. -/
def Obligations.RandomIsMasked : Prop :=
  ∀ (x : Reg) (kk : Byte) (s : State), ∃ t, exec (.rnd x kk) s = .next t ∧
    (∀ b, (t.reg x).getLsbD b = (s.rndIn.getLsbD b && kk.getLsbD b)) ∧
    (∀ r, r ≠ x → t.reg r = s.reg r) ∧ t.pc = s.pc + 2 ∧ Frame s t [.pc, .regs]

/-! ### Index register and memory -/

/-- LD I,addr (43_index_memory.md R180). -/
def Obligations.LoadIndexTakesTheAddress : Prop :=
  ∀ (nnn : Addr) (s : State), (∀ c, decodeWord c (0xA#4 ++ nnn) = .instr (.ldI nnn)) ∧
    ∃ t, exec (.ldI nnn) s = .next t ∧ t.i.toNat = nnn.toNat ∧ t.pc = s.pc + 2 ∧
      Frame s t [.pc, .index]

/-- ADD I,Vx and LD F,Vx (43_index_memory.md R181, R182, D21, D22): I is the sum modulo 65536, or FONT_BASE
+ 5 * Vx with the full byte under every legal configuration; VF is not changed. -/
def Obligations.IndexAddAndGlyphAddress : Prop :=
  ∀ (x : Reg) (s : State),
    (∃ t, exec (.addI x) s = .next t ∧ t.i.toNat = (s.i.toNat + (s.reg x).toNat) % 65536 ∧
      t.pc = s.pc + 2 ∧ Frame s t [.pc, .index]) ∧
    (s.cfg.wf → ∃ t, exec (.ldF x) s = .next t ∧
      t.i.toNat = s.cfg.fontBase + 5 * (s.reg x).toNat ∧ t.pc = s.pc + 2 ∧ Frame s t [.pc, .index])

/-- LD B,Vx inside Memory (43_index_memory.md R183, D23): the bytes at I, I+1, I+2 are decimal digits that
make up Vx; every other byte and everything else, I among it, is unchanged. -/
def Obligations.DecimalDigitsAreStored : Prop :=
  ∀ (x : Reg) (s : State), s.i.toNat + 2 < s.cfg.memSize →
    ∃ t, exec (.ldB x) s = .next t ∧
      100 * (t.byte s.i.toNat).toNat + 10 * (t.byte (s.i.toNat + 1)).toNat +
        (t.byte (s.i.toNat + 2)).toNat = (s.reg x).toNat ∧
      (t.byte (s.i.toNat + 1)).toNat ≤ 9 ∧ (t.byte (s.i.toNat + 2)).toNat ≤ 9 ∧
      (∀ a, a < s.i.toNat ∨ s.i.toNat + 3 ≤ a → t.byte a = s.byte a) ∧ t.pc = s.pc + 2 ∧
      Frame s t [.pc, .memory]

/-- LD [I],Vx inside Memory (43_index_memory.md R184, D23): V0 to Vx, inclusive, at I to I + x; every other
byte and everything else, I among it, is unchanged. -/
def Obligations.RegistersAreStored : Prop :=
  ∀ (x : Reg) (s : State), s.i.toNat + x.toNat < s.cfg.memSize →
    ∃ t, exec (.stRegs x) s = .next t ∧
      (∀ r : Reg, r ≤ x → t.byte (s.i.toNat + r.toNat) = s.reg r) ∧
      (∀ a, a < s.i.toNat ∨ s.i.toNat + x.toNat < a → t.byte a = s.byte a) ∧ t.pc = s.pc + 2 ∧
      Frame s t [.pc, .memory]

/-- LD Vx,[I] inside Memory (43_index_memory.md R185, D23): V0 to Vx, inclusive, from I to I + x; the other
registers, all of memory and everything else, I among it, are unchanged. -/
def Obligations.RegistersAreLoaded : Prop :=
  ∀ (x : Reg) (s : State), s.i.toNat + x.toNat < s.cfg.memSize →
    ∃ t, exec (.ldRegs x) s = .next t ∧
      (∀ r : Reg, r ≤ x → t.reg r = s.byte (s.i.toNat + r.toNat)) ∧
      (∀ r : Reg, x < r → t.reg r = s.reg r) ∧ t.pc = s.pc + 2 ∧ Frame s t [.pc, .regs]

/-- DATA_BOUNDS (60_exceptions.md R262, R266, D24): DRW with n > 0, LD B, LD [I],Vx and LD Vx,[I] stop the
engine when their access range reaches MEM_SIZE, with the word, the PC and the first out-of-range address
recorded and no byte read into a register, written or drawn. -/
def Obligations.DataAccessOutsideMemoryIsFatal : Prop :=
  ∀ (x y : Reg) (n : Nat) (s : State),
    (s.cfg.memSize ≤ s.i.toNat + 2 →
      ∃ t, exec (.ldB x) s = .next t ∧
        FatalStop s t .dataBounds (some (0xF#4 ++ x ++ 0x33#8)) (some (max s.i.toNat s.cfg.memSize))) ∧
    (s.cfg.memSize ≤ s.i.toNat + x.toNat →
      (∃ t, exec (.stRegs x) s = .next t ∧
        FatalStop s t .dataBounds (some (0xF#4 ++ x ++ 0x55#8)) (some (max s.i.toNat s.cfg.memSize))) ∧
      (∃ t, exec (.ldRegs x) s = .next t ∧
        FatalStop s t .dataBounds (some (0xF#4 ++ x ++ 0x65#8)) (some (max s.i.toNat s.cfg.memSize)))) ∧
    (0 < n → s.cfg.memSize ≤ s.i.toNat + n - 1 →
      ∃ t, exec (.drw x y n) s = .next t ∧
        FatalStop s t .dataBounds (some (0xD#4 ++ x ++ y ++ BitVec.ofNat 4 n))
          (some (max s.i.toNat s.cfg.memSize)))

/-- A store into the next instruction is seen by the next fetch (20_memory.md R73, D35), for both instructions
that store: after LD [I],Vx or LD B,Vx, wherever I is, each byte of the next word fetched is the register, or
the digit, that the instruction stored at that address, or the old byte where it stored none. PC is in the
range that 10_state.md R24 gives it, so that PC + 2 does not wrap. -/
def Obligations.StoreIsSeenByTheNextFetch : Prop :=
  ∀ (x : Reg) (s : State), s.pc.toNat < 0x1FFFE → s.pc.toNat + 3 < s.cfg.memSize →
    (s.i.toNat + x.toNat < s.cfg.memSize →
      ∃ t hi lo, exec (.stRegs x) s = .next t ∧ t.fetch = some (hi ++ lo) ∧
        (∀ r : Reg, r ≤ x → s.i.toNat + r.toNat = s.pc.toNat + 2 → hi = s.reg r) ∧
        (∀ r : Reg, r ≤ x → s.i.toNat + r.toNat = s.pc.toNat + 3 → lo = s.reg r) ∧
        ((∀ r : Reg, r ≤ x → s.i.toNat + r.toNat ≠ s.pc.toNat + 2) → hi = s.byte (s.pc.toNat + 2)) ∧
        ((∀ r : Reg, r ≤ x → s.i.toNat + r.toNat ≠ s.pc.toNat + 3) → lo = s.byte (s.pc.toNat + 3))) ∧
    (s.i.toNat + 2 < s.cfg.memSize →
      ∃ t hi lo, exec (.ldB x) s = .next t ∧ t.fetch = some (hi ++ lo) ∧
        (s.i.toNat = s.pc.toNat + 2 →
          hi.toNat = (s.reg x).toNat / 100 ∧ lo.toNat = (s.reg x).toNat / 10 % 10) ∧
        (s.i.toNat = s.pc.toNat + 3 →
          hi = s.byte (s.pc.toNat + 2) ∧ lo.toNat = (s.reg x).toNat / 100) ∧
        (s.i.toNat = s.pc.toNat + 1 →
          hi.toNat = (s.reg x).toNat / 10 % 10 ∧ lo.toNat = (s.reg x).toNat % 10) ∧
        (s.i.toNat = s.pc.toNat →
          hi.toNat = (s.reg x).toNat % 10 ∧ lo = s.byte (s.pc.toNat + 3)) ∧
        (s.i.toNat < s.pc.toNat ∨ s.pc.toNat + 3 < s.i.toNat →
          hi = s.byte (s.pc.toNat + 2) ∧ lo = s.byte (s.pc.toNat + 3)))

/-! ### Display -/

/-- CLS (44_display.md R200): every pixel is 0; nothing else changes but PC, VF not either; a redraw is
requested at the end of the tick. -/
def Obligations.ClearTurnsEveryPixelOff : Prop :=
  ∀ s : State, (∀ c, decodeWord c 0x00E0 = .instr .cls) ∧
    ∃ t, exec .cls s = .next t ∧ (∀ x y, t.pixel x y = false) ∧ t.pc = s.pc + 2 ∧
      (s.mode ≠ .stopped → t.finish.redraw = true) ∧ Frame s t [.pc, .pixels]

/-- DRW Vx,Vy,n inside Memory (44_display.md R201, D11 to D13): every pixel is XORed once for each 1 bit of
the sprite that falls on it, with both coordinates wrapping; VF is the last effect; no other register and no
byte changes. n = 0 draws nothing. -/
def Obligations.DrawXorsEachPixelOncePerSpriteBit : Prop :=
  ∀ (x y : Reg) (n : Nat) (s : State), n = 0 ∨ s.i.toNat + n ≤ s.cfg.memSize →
    ∃ t, exec (.drw x y n) s = .next t ∧
      (∀ p q, t.pixel p q = (s.pixel p q ^^ (spriteHits s x y n p q % 2 == 1))) ∧
      (∀ r, r ≠ 15 → t.reg r = s.reg r) ∧ t.pc = s.pc + 2 ∧ Frame s t [.pc, .regs, .pixels]

/-- The collision flag of DRW (44_display.md R201, D11 to D13): VF is 1 if some pixel goes from on to off
during the draw (it was on and is hit, or it is hit more than once), else 0. -/
def Obligations.DrawFlagsCollisions : Prop :=
  ∀ (x y : Reg) (n : Nat) (s : State), n = 0 ∨ s.i.toNat + n ≤ s.cfg.memSize →
    ∃ t, exec (.drw x y n) s = .next t ∧
      ((∃ p q, (s.pixel p q = true ∧ 1 ≤ spriteHits s x y n p q) ∨ 2 ≤ spriteHits s x y n p q) →
        t.reg 15 = 1) ∧
      ((∀ p q, ¬((s.pixel p q = true ∧ 1 ≤ spriteHits s x y n p q) ∨
        2 ≤ spriteHits s x y n p q)) → t.reg 15 = 0)

/-- Drawing the same sprite twice at the same place restores every pixel (R201, D12, D13). The coordinates
are not in VF, which the first draw overwrites. -/
def Obligations.DrawingTwiceRestoresThePixels : Prop :=
  ∀ (x y : Reg) (n : Nat) (s : State), x ≠ 15 → y ≠ 15 → n = 0 ∨ s.i.toNat + n ≤ s.cfg.memSize →
    ∃ t u, exec (.drw x y n) s = .next t ∧ exec (.drw x y n) t = .next u ∧
      ∀ p q, u.pixel p q = s.pixel p q

/-! ### Timers and keys -/

/-- LD DT,Vx (45_timers_keys.md R222): every 8-bit value is legal. -/
def Obligations.DelayTimerIsSet : Prop :=
  ∀ (x : Reg) (s : State), (∀ c, decodeWord c (0xF#4 ++ x ++ 0x15#8) = .instr (.ldDtVx x)) ∧
    ∃ t, exec (.ldDtVx x) s = .next t ∧ t.dt = s.reg x ∧ t.pc = s.pc + 2 ∧ Frame s t [.pc, .dt]

/-- LD Vx,DT and LD ST,Vx (45_timers_keys.md section 2): Vx is DT, or ST is Vx, and then the tone at the end
of the tick is on for a nonzero value and off for 0 (D28). The encoding of LD Vx,DT, and which value DT has
in its tick, are in TimerReadSeesThisTicksDecrement. -/
def Obligations.DelayTimerIsReadAndSoundTimerIsSet : Prop :=
  ∀ (x : Reg) (s : State), (∀ c, decodeWord c (0xF#4 ++ x ++ 0x18#8) = .instr (.ldStVx x)) ∧
    (∃ t, exec (.ldVxDt x) s = .next t ∧ t.reg x = s.dt ∧ (∀ r, r ≠ x → t.reg r = s.reg r) ∧
      t.pc = s.pc + 2 ∧ Frame s t [.pc, .regs]) ∧
    (∃ t, exec (.ldStVx x) s = .next t ∧ t.st = s.reg x ∧ t.pc = s.pc + 2 ∧
      (s.mode ≠ .stopped → (t.finish.tone = true ↔ s.reg x ≠ 0)) ∧ Frame s t [.pc, .st])

/-- SKP and SKNP Vx (45_timers_keys.md R224, R225, D26): a key is down only if Vx names one, 0 to 0xF, and
its KeyState bit is 1; SKP skips when it is down, SKNP when it is not. -/
def Obligations.KeySkips : Prop :=
  ∀ (x : Reg) (s : State),
    (∃ t, exec (.skp x) s = .next t ∧ Frame s t [.pc] ∧
      ((s.reg x).toNat ≤ 15 ∧ s.keys.getLsbD (s.reg x).toNat = true → t.pc = s.pc + 4) ∧
      (¬((s.reg x).toNat ≤ 15 ∧ s.keys.getLsbD (s.reg x).toNat = true) → t.pc = s.pc + 2)) ∧
    (∃ t, exec (.sknp x) s = .next t ∧ Frame s t [.pc] ∧
      (¬((s.reg x).toNat ≤ 15 ∧ s.keys.getLsbD (s.reg x).toNat = true) → t.pc = s.pc + 4) ∧
      ((s.reg x).toNat ≤ 15 ∧ s.keys.getLsbD (s.reg x).toNat = true → t.pc = s.pc + 2))

/-- LD Vx,K (45_timers_keys.md R226, D25): the engine waits, with x remembered and PC still at this word;
nothing else changes, even with a key down. -/
def Obligations.KeyWaitBegins : Prop :=
  ∀ (x : Reg) (s : State), ∃ t, exec (.ldVxK x) s = .next t ∧ t.mode = .awaitingKey ∧
    t.pendingReg = x ∧ Frame s t [.mode, .pendingReg]

/-! ### Rules over all instructions -/

/-- Which instructions can change which state (10_state.md R22, R25 to R30, R36, R40; 20_memory.md R60), and
which can stop the engine, with which reason: each has at most one check (60_exceptions.md R269, the spec's
derivation). -/
def Obligations.OnlyTheListedInstructionsChangeState : Prop :=
  ∀ (i : Instr) (s t : State), exec i s = .next t →
    (t.i ≠ s.i → (∃ nnn, i = .ldI nnn) ∨ ∃ x, i = .addI x ∨ i = .ldF x) ∧
    (t.sp ≠ s.sp ∨ t.stack ≠ s.stack → i = .ret ∨ ∃ nnn, i = .call nnn) ∧
    (t.dt ≠ s.dt → ∃ x, i = .ldDtVx x) ∧ (t.st ≠ s.st → ∃ x, i = .ldStVx x) ∧
    ((∃ a, t.byte a ≠ s.byte a) → ∃ x, i = .ldB x ∨ i = .stRegs x) ∧
    ((∃ x y, t.pixel x y ≠ s.pixel x y) → i = .cls ∨ ∃ x y n, i = .drw x y n) ∧
    (t.pendingReg ≠ s.pendingReg → ∃ x, i = .ldVxK x) ∧
    (t.mode ≠ s.mode → t.mode = .awaitingKey ∧ (∃ x, i = .ldVxK x) ∨
      t.mode = .stopped ∧ (i = .halt ∨ i = .ret ∨ (∃ nnn, i = .call nnn) ∨
        (∃ x y n, i = .drw x y n) ∨ ∃ x, i = .ldB x ∨ i = .stRegs x ∨ i = .ldRegs x)) ∧
    (t.stopReason ≠ s.stopReason →
      t.mode = .stopped ∧
        (i = .halt ∧ t.stopReason = some .halt ∨
          i = .ret ∧ t.stopReason = some (.fatal .stackUnderflow) ∨
          (∃ nnn, i = .call nnn) ∧ t.stopReason = some (.fatal .stackOverflow) ∨
          ((∃ x y n, i = .drw x y n) ∨ ∃ x, i = .ldB x ∨ i = .stRegs x ∨ i = .ldRegs x) ∧
            t.stopReason = some (.fatal .dataBounds))) ∧
    t.cfg = s.cfg ∧ t.keys = s.keys ∧ t.prevKeys = s.prevKeys ∧ t.inputs = s.inputs

/-- VF changes only as the flag of ADD Vx,Vy, SUB, SUBN, SHR, SHL and DRW, or as an ordinary destination
register (10_state.md R35, D15). -/
def Obligations.VfChangesOnlyAsFlagOrDestination : Prop :=
  ∀ (i : Instr) (s t : State), exec i s = .next t → t.reg 15 ≠ s.reg 15 →
    (∃ x y, i = .addReg x y ∨ i = .subReg x y ∨ i = .subnReg x y) ∨ (∃ x, i = .shr x ∨ i = .shl x) ∨
    (∃ x y n, i = .drw x y n) ∨
    (∃ y, i = .ldReg 15 y ∨ i = .orReg 15 y ∨ i = .andReg 15 y ∨ i = .xorReg 15 y) ∨
    (∃ kk, i = .ldImm 15 kk ∨ i = .addImm 15 kk ∨ i = .rnd 15 kk) ∨ i = .ldVxDt 15 ∨ i = .ldRegs 15

/-- fb_out is the whole grid, row by row, and shows FB[x][y]; exit_ok is present only in STOPPED, 1 for QUIT
and HALT and 0 for FATAL (10_state.md R46, 44_display.md R203, D37). -/
def Obligations.OutputPortsShowTheState : Prop :=
  ∀ s : State,
    s.fbOut.length = s.cfg.fbH ∧ (∀ row ∈ s.fbOut, row.length = s.cfg.fbW) ∧
    (∀ x y, x < s.cfg.fbW → y < s.cfg.fbH → (s.fbOut[y]?.bind fun row => row[x]?) = some (s.pixel x y)) ∧
    (s.stopped = true ↔ s.mode = .stopped) ∧
    (s.mode ≠ .stopped → s.exitOk = none) ∧
    (s.mode = .stopped → s.stopReason = some .quit ∨ s.stopReason = some .halt → s.exitOk = some true) ∧
    (∀ k, s.mode = .stopped → s.stopReason = some (.fatal k) → s.exitOk = some false)

/-! ### Loader failures -/

/-- A failure of the loader (file missing or unreadable) reaches reset as the same LOAD_ERROR as an image that
is too long (60_exceptions.md R268, D40): STOPPED from the start with exit_ok 0, no byte of Memory loaded,
the same state but for diag, and any number of ticks leaves it STOPPED. That the diagnostic of a failed load
has no length, and that Memory and the rest have their reset values, is the model's choice
(notes/assumptions/6.md), and so is that the ticks in STOPPED leave the model's own fields, the schedule of
inputs, rndIn and freeDrawn (notes/assumptions/32.md). The invariant holds there. -/
def Obligations.LoaderFailureIsTheSameLoadError : Prop :=
  ∀ c : Config,
    let s := State.resetLoad c .failed
    s.mode = .stopped ∧ s.stopReason = some (.fatal .loadError) ∧ s.exitOk = some false ∧
      s.diag = some ⟨.loadError, none, none, none, none⟩ ∧ (∀ a, s.byte a = resetByte c a) ∧
      (∀ image : List Byte, c.memSize - 0x200 < image.length →
        Frame s (State.resetLoad c (.image image)) [.diag]) ∧
      (∀ n, ∃ t, core.run (n + 1) s = .next t ∧ t.stopReason = some (.fatal .loadError) ∧
        Frame s t [.diag]) ∧
      (c.wf → s.Inv)
end

