-- ==== Sys2Proof/Laws/Bits.lean ====
section
/-! SUPPORT. An instruction word as its four nibbles: what its fields are, and when it selects a row of
the opcode map. -/

namespace Sys2Proof.Laws

/-- The word of four nibbles, high nibble first. -/
def nibbles (c x y n : BitVec 4) : Word := c ++ x ++ y ++ n

theorem getLsbD_nibbles (c x y n : BitVec 4) (i : Nat) :
    (nibbles c x y n).getLsbD i =
      if i < 4 then n.getLsbD i else if i < 8 then y.getLsbD (i - 4)
      else if i < 12 then x.getLsbD (i - 8) else c.getLsbD (i - 12) := by
  unfold nibbles
  rw [show (c ++ x ++ y ++ n : Word) = ((c ++ x ++ y ++ n : BitVec (4 + 4 + 4 + 4))) from rfl]
  simp only [BitVec.getLsbD_append]
  simp only [Nat.sub_sub, Nat.reduceAdd]
  split_ifs <;> first | omega | rfl

/-- A nibble of a word is found by its bits. -/
theorem extract_eq_of_bits (w : Word) (k : Nat) (d : BitVec 4)
    (h : ∀ i, i < 4 → w.getLsbD (k + i) = d.getLsbD i) : w.extractLsb' k 4 = d := by
  apply BitVec.eq_of_getLsbD_eq
  intro i hi
  rw [BitVec.getLsbD_extractLsb', h i hi]
  simp [hi]

@[simp] theorem extract_c (c x y n : BitVec 4) : (nibbles c x y n).extractLsb' 12 4 = c :=
  extract_eq_of_bits _ _ _ fun i hi => by rw [getLsbD_nibbles]; split_ifs <;> first | omega | simp

@[simp] theorem extract_x (c x y n : BitVec 4) : (nibbles c x y n).extractLsb' 8 4 = x :=
  extract_eq_of_bits _ _ _ fun i hi => by rw [getLsbD_nibbles]; split_ifs <;> first | omega | simp

@[simp] theorem extract_y (c x y n : BitVec 4) : (nibbles c x y n).extractLsb' 4 4 = y :=
  extract_eq_of_bits _ _ _ fun i hi => by rw [getLsbD_nibbles]; split_ifs <;> first | omega | simp

@[simp] theorem extract_n (c x y n : BitVec 4) : (nibbles c x y n).extractLsb' 0 4 = n :=
  extract_eq_of_bits _ _ _ fun i hi => by rw [getLsbD_nibbles]; split_ifs <;> first | omega | simp

/-- Every word is the word of its nibbles. -/
theorem nibbles_extract (w : Word) :
    nibbles (w.extractLsb' 12 4) (w.extractLsb' 8 4) (w.extractLsb' 4 4) (w.extractLsb' 0 4) = w := by
  apply BitVec.eq_of_getLsbD_eq
  intro i hi
  rw [getLsbD_nibbles]
  simp only [BitVec.getLsbD_extractLsb']
  split
  · simp [*]
  split
  · simp [show i - 4 < 4 by omega, show 4 + (i - 4) = i by omega]
  split
  · simp [show i - 8 < 4 by omega, show 8 + (i - 8) = i by omega]
  · simp [show i - 12 < 4 by omega, show 12 + (i - 12) = i by omega]

theorem nibbles_inj (c x y n c' x' y' n' : BitVec 4) :
    nibbles c x y n = nibbles c' x' y' n' ↔ c = c' ∧ x = x' ∧ y = y' ∧ n = n' := by
  constructor
  · intro h
    refine ⟨?_, ?_, ?_, ?_⟩
    · simpa using congrArg (·.extractLsb' 12 4) h
    · simpa using congrArg (·.extractLsb' 8 4) h
    · simpa using congrArg (·.extractLsb' 4 4) h
    · simpa using congrArg (·.extractLsb' 0 4) h
  · rintro ⟨rfl, rfl, rfl, rfl⟩; rfl

theorem nibbles_and (c x y n : BitVec 4) (m : Word) :
    nibbles c x y n &&& m = nibbles (c &&& m.extractLsb' 12 4) (x &&& m.extractLsb' 8 4)
      (y &&& m.extractLsb' 4 4) (n &&& m.extractLsb' 0 4) := by
  apply BitVec.eq_of_getLsbD_eq
  intro i hi
  conv_lhs => rw [← nibbles_extract m]
  simp only [BitVec.getLsbD_and, getLsbD_nibbles]
  split
  · rfl
  split
  · rfl
  split <;> rfl

/-- A row of the opcode map is selected nibble by nibble. -/
theorem selects_nibbles (r : OpRow) (c x y n : BitVec 4) :
    r.selects (nibbles c x y n) = decide (
      c &&& r.mask.extractLsb' 12 4 = r.pattern.extractLsb' 12 4 ∧
      x &&& r.mask.extractLsb' 8 4 = r.pattern.extractLsb' 8 4 ∧
      y &&& r.mask.extractLsb' 4 4 = r.pattern.extractLsb' 4 4 ∧
      n &&& r.mask.extractLsb' 0 4 = r.pattern.extractLsb' 0 4) := by
  rw [Bool.eq_iff_iff, decide_eq_true_iff, ← nibbles_inj, nibbles_extract, ← nibbles_and]
  simp [OpRow.selects]

/-- The fields of a word of four nibbles (R81). -/
theorem describe_nibbles (c x y n : BitVec 4) :
    describe (nibbles c x y n) =
      { c := c, x := x, y := y, n := n, kk := y ++ n, nnn := x ++ y ++ n } := by
  simp only [describe, extract_c, extract_x, extract_y, extract_n, Descriptor.mk.injEq, true_and]
  constructor
  · apply BitVec.eq_of_getLsbD_eq
    intro i hi
    rw [show (y ++ n : Byte) = (y ++ n : BitVec (4 + 4)) from rfl]
    simp only [BitVec.getLsbD_extractLsb', BitVec.getLsbD_append, Nat.zero_add, getLsbD_nibbles]
    split_ifs <;> simp_all
  · apply BitVec.eq_of_getLsbD_eq
    intro i hi
    rw [show (x ++ y ++ n : Addr) = (x ++ y ++ n : BitVec (4 + 4 + 4)) from rfl]
    simp only [BitVec.getLsbD_extractLsb', BitVec.getLsbD_append, Nat.zero_add, getLsbD_nibbles]
    simp only [Nat.sub_sub, Nat.reduceAdd]
    split_ifs <;> first | omega | simp_all

/-- A byte is its two nibbles. -/
theorem byte_nibbles (kk : Byte) : (kk.extractLsb' 4 4 ++ kk.extractLsb' 0 4 : Byte) = kk := by
  apply BitVec.eq_of_getLsbD_eq
  intro i hi
  rw [show (kk.extractLsb' 4 4 ++ kk.extractLsb' 0 4 : Byte) =
    (kk.extractLsb' 4 4 ++ kk.extractLsb' 0 4 : BitVec (4 + 4)) from rfl]
  simp only [BitVec.getLsbD_append, BitVec.getLsbD_extractLsb']
  split
  · simp [*]
  · simp [show i - 4 < 4 by omega, show 4 + (i - 4) = i by omega]

/-- An address operand is its three nibbles. -/
theorem addr_nibbles (nnn : Addr) :
    (nnn.extractLsb' 8 4 ++ nnn.extractLsb' 4 4 ++ nnn.extractLsb' 0 4 : Addr) = nnn := by
  apply BitVec.eq_of_getLsbD_eq
  intro i hi
  rw [show (nnn.extractLsb' 8 4 ++ nnn.extractLsb' 4 4 ++ nnn.extractLsb' 0 4 : Addr) =
    (nnn.extractLsb' 8 4 ++ nnn.extractLsb' 4 4 ++ nnn.extractLsb' 0 4 : BitVec (4 + 4 + 4)) from rfl]
  simp only [BitVec.getLsbD_append, BitVec.getLsbD_extractLsb']
  split
  · simp [*]
  split
  · simp [show i - 4 < 4 by omega, show 4 + (i - 4) = i by omega]
  · simp [show i - 4 - 4 < 4 by omega, show 8 + (i - 4 - 4) = i by omega]

/-- A word of a class nibble and an address, in nibbles (format NNN). -/
theorem nibbles_nnn (k : BitVec 4) (nnn : Addr) :
    (k ++ nnn : Word) = nibbles k (nnn.extractLsb' 8 4) (nnn.extractLsb' 4 4) (nnn.extractLsb' 0 4) := by
  conv_lhs => rw [← addr_nibbles nnn]
  apply BitVec.eq_of_getLsbD_eq
  intro i hi
  rw [getLsbD_nibbles, show (k ++ (nnn.extractLsb' 8 4 ++ nnn.extractLsb' 4 4 ++ nnn.extractLsb' 0 4 : Addr) : Word) =
    (k ++ (nnn.extractLsb' 8 4 ++ nnn.extractLsb' 4 4 ++ nnn.extractLsb' 0 4 : BitVec (4 + 4 + 4)) : BitVec (4 + (4 + 4 + 4)))
    from rfl]
  simp only [BitVec.getLsbD_append]
  simp only [Nat.sub_sub, Nat.reduceAdd]
  split_ifs <;> first | omega | rfl

/-- A word of a class nibble, a register and an immediate, in nibbles (format XKK). -/
theorem nibbles_xkk (k x : BitVec 4) (kk : Byte) :
    (k ++ x ++ kk : Word) = nibbles k x (kk.extractLsb' 4 4) (kk.extractLsb' 0 4) := by
  conv_lhs => rw [← byte_nibbles kk]
  apply BitVec.eq_of_getLsbD_eq
  intro i hi
  rw [getLsbD_nibbles, show (k ++ x ++ (kk.extractLsb' 4 4 ++ kk.extractLsb' 0 4 : Byte) : Word) =
    (k ++ x ++ (kk.extractLsb' 4 4 ++ kk.extractLsb' 0 4 : BitVec (4 + 4)) : BitVec (4 + 4 + (4 + 4)))
    from rfl]
  simp only [BitVec.getLsbD_append]
  simp only [Nat.sub_sub, Nat.reduceAdd]
  split_ifs <;> first | omega | rfl

/-- A class nibble before an address given in nibbles. -/
theorem append_addr (k x y n : BitVec 4) : (k ++ (x ++ y ++ n : Addr) : Word) = nibbles k x y n := by
  apply BitVec.eq_of_getLsbD_eq
  intro i hi
  rw [getLsbD_nibbles, show (k ++ (x ++ y ++ n : Addr) : Word) =
    (k ++ (x ++ y ++ n : BitVec (4 + 4 + 4)) : BitVec (4 + (4 + 4 + 4))) from rfl]
  simp only [BitVec.getLsbD_append]
  simp only [Nat.sub_sub, Nat.reduceAdd]
  split_ifs <;> first | omega | rfl

/-- Two nibbles before a byte given in nibbles. -/
theorem append_byte (k x y n : BitVec 4) : (k ++ x ++ (y ++ n : Byte) : Word) = nibbles k x y n := by
  apply BitVec.eq_of_getLsbD_eq
  intro i hi
  rw [getLsbD_nibbles, show (k ++ x ++ (y ++ n : Byte) : Word) =
    (k ++ x ++ (y ++ n : BitVec (4 + 4)) : BitVec (4 + 4 + (4 + 4))) from rfl]
  simp only [BitVec.getLsbD_append]
  simp only [Nat.sub_sub, Nat.reduceAdd]
  split_ifs <;> first | omega | rfl

/-- A word written as four nibbles (formats XYS, XYN). -/
theorem nibbles_xyn (c x y n : BitVec 4) : (c ++ x ++ y ++ n : Word) = nibbles c x y n := rfl

end Sys2Proof.Laws
end

