-- ==== Sys2Proof/Laws/Framebuffer.lean ====
section
/-! SUPPORT. The framebuffer: what toggling a pixel does, and that drawing keeps the canonical form. -/

namespace Sys2Proof.Machine

theorem Framebuffer.mem_insert (fb : Framebuffer) (p q : Nat × Nat) :
    q ∈ Framebuffer.insert fb p ↔ q = p ∨ q ∈ fb := by
  induction fb with
  | nil => simp [Framebuffer.insert]
  | cons head rest ih =>
    simp only [Framebuffer.insert]
    split
    · simp
    · simp only [List.mem_cons, ih]; tauto

/-- Toggling changes its pixel and no other. -/
theorem Framebuffer.on_toggle (fb : Framebuffer) (p q : Nat × Nat) :
    (fb.toggle p).on q = if q = p then !fb.on q else fb.on q := by
  unfold Framebuffer.toggle Framebuffer.on
  split
  · by_cases h : q = p <;> simp_all
  · by_cases h : q = p <;> simp_all [Framebuffer.mem_insert]

theorem Framebuffer.sorted_insert (fb : Framebuffer) (p : Nat × Nat) (hp : p ∉ fb)
    (h : fb.Pairwise Pixel.before) : (Framebuffer.insert fb p).Pairwise Pixel.before := by
  induction fb with
  | nil => simp [Framebuffer.insert]
  | cons head rest ih =>
    rw [List.pairwise_cons] at h
    simp only [Framebuffer.insert]
    split
    · rename_i hlt
      refine List.pairwise_cons.2 ⟨fun q hq => ?_, List.pairwise_cons.2 h⟩
      rcases List.mem_cons.1 hq with rfl | hq
      · exact hlt
      · have := h.1 q hq
        unfold Pixel.before at *
        omega
    · rename_i hge
      refine List.pairwise_cons.2 ⟨fun q hq => ?_, ih (fun hm => hp (List.mem_cons_of_mem _ hm)) h.2⟩
      rcases (Framebuffer.mem_insert _ _ _).1 hq with rfl | hq
      · have hne : q ≠ head := fun e => hp (e ▸ List.mem_cons_self ..)
        unfold Pixel.before at *
        rcases Nat.lt_trichotomy head.2 q.2 with h1 | h1 | h1
        · exact Or.inl h1
        · rcases Nat.lt_trichotomy head.1 q.1 with h2 | h2 | h2
          · exact Or.inr ⟨h1, h2⟩
          · exact absurd (Prod.ext h2.symm h1.symm) hne
          · exact absurd (Or.inr ⟨h1.symm, h2⟩) hge
        · exact absurd (Or.inl h1) hge
      · exact h.1 q hq

theorem Framebuffer.wf_toggle (c : Config) (fb : Framebuffer) (p : Nat × Nat)
    (h : Framebuffer.wf c fb) (hp : p.1 < c.fbW ∧ p.2 < c.fbH) : Framebuffer.wf c (fb.toggle p) := by
  unfold Framebuffer.toggle
  split
  · exact ⟨h.1.filter _, fun q hq => h.2 q (List.mem_filter.1 hq).1⟩
  · rename_i hm
    refine ⟨Framebuffer.sorted_insert fb p hm h.1, fun q hq => ?_⟩
    rcases (Framebuffer.mem_insert _ _ _).1 hq with rfl | hq
    · exact hp
    · exact h.2 q hq

theorem Drawing.wf_xor (c : Config) (d : Drawing) (bit : Bool) (p : Nat × Nat)
    (h : Framebuffer.wf c d.fb) (hp : p.1 < c.fbW ∧ p.2 < c.fbH) :
    Framebuffer.wf c (d.xor bit p).fb := by
  unfold Drawing.xor
  split
  · exact Framebuffer.wf_toggle c d.fb p h hp
  · exact h

/-- XORing a bit into a pixel turns over that pixel if the bit is 1. -/
theorem Drawing.on_xor (d : Drawing) (bit : Bool) (p q : Nat × Nat) :
    (d.xor bit p).fb.on q = (d.fb.on q ^^ (bit && decide (q = p))) := by
  unfold Drawing.xor
  cases bit
  · simp
  · simp only [if_true, Framebuffer.on_toggle]
    by_cases h : q = p <;> simp [h]

/-- A collision is a 1 bit over a pixel that is on. -/
theorem Drawing.collision_xor (d : Drawing) (bit : Bool) (p : Nat × Nat) :
    (d.xor bit p).collision = (d.collision || (bit && d.fb.on p)) := by
  unfold Drawing.xor; cases bit <;> simp

/-- How many of the columns `ks` of a sprite row put a 1 bit on pixel `q`. -/
def rowHits (c : Config) (x0 y0 r : Nat) (b : Byte) (ks : List Nat) (q : Nat × Nat) : Nat :=
  (ks.filter fun k => spriteBit b k && decide (q = spritePixel c x0 y0 r k)).length

theorem rowHits_cons (c : Config) (x0 y0 r : Nat) (b : Byte) (k : Nat) (ks : List Nat) (q : Nat × Nat) :
    rowHits c x0 y0 r b (k :: ks) q = rowHits c x0 y0 r b ks q +
      if spriteBit b k && decide (q = spritePixel c x0 y0 r k) then 1 else 0 := by
  unfold rowHits; rw [List.filter_cons]; split <;> simp

/-- The pixels after a sprite row. -/
theorem Drawing.on_row (c : Config) (x0 y0 r : Nat) (b : Byte) (d : Drawing) (q : Nat × Nat) :
    (d.row c x0 y0 r b).fb.on q =
      (d.fb.on q ^^ (rowHits c x0 y0 r b (List.range 8) q % 2 == 1)) := by
  unfold Drawing.row
  generalize List.range 8 = ks
  induction ks generalizing d with
  | nil => simp [rowHits]
  | cons k ks ih =>
    rw [List.foldl_cons, ih, Drawing.on_xor, rowHits_cons]
    generalize rowHits c x0 y0 r b ks q = n
    cases (spriteBit b k && decide (q = spritePixel c x0 y0 r k)) with
    | false => simp
    | true =>
      rcases Nat.mod_two_eq_zero_or_one n with h | h
      · have : (n + 1) % 2 = 1 := by omega
        simp [h, this]
      · have : (n + 1) % 2 = 0 := by omega
        simp [h, this]

theorem spritePixel_inside (c : Config) (hw : 1 ≤ c.fbW) (hh : 1 ≤ c.fbH) (x0 y0 r k : Nat) :
    (spritePixel c x0 y0 r k).1 < c.fbW ∧ (spritePixel c x0 y0 r k).2 < c.fbH :=
  ⟨Nat.mod_lt _ hw, Nat.mod_lt _ hh⟩

theorem Drawing.wf_row (c : Config) (hw : 1 ≤ c.fbW) (hh : 1 ≤ c.fbH) (x0 y0 r : Nat) (b : Byte)
    (d : Drawing) (h : Framebuffer.wf c d.fb) : Framebuffer.wf c (d.row c x0 y0 r b).fb := by
  unfold Drawing.row
  generalize List.range 8 = ks
  induction ks generalizing d with
  | nil => exact h
  | cons k ks ih => exact ih _ (Drawing.wf_xor c d _ _ h (spritePixel_inside c hw hh x0 y0 r k))

/-- Drawing keeps the framebuffer's canonical form. -/
theorem Framebuffer.wf_draw (c : Config) (hw : 1 ≤ c.fbW) (hh : 1 ≤ c.fbH) (fb : Framebuffer)
    (x0 y0 : Nat) (sprite : List Byte) (h : Framebuffer.wf c fb) :
    Framebuffer.wf c (fb.draw c x0 y0 sprite).fb := by
  unfold Framebuffer.draw
  suffices ∀ r (d : Drawing), Framebuffer.wf c d.fb →
      Framebuffer.wf c (Drawing.rows c x0 y0 r sprite d).fb from this 0 _ h
  induction sprite with
  | nil => exact fun r d hd => hd
  | cons b rest ih => exact fun r d hd => ih _ _ (Drawing.wf_row c hw hh x0 y0 r b d hd)

end Sys2Proof.Machine
end

