-- ==== Sys2Proof/Laws/Memory.lean ====
section
/-! SUPPORT. Memory: a read after a store, the canonical form, and which bytes a canonical list holds. -/

namespace Sys2Proof.Machine

theorem Memory.find_insert (m : Memory) (a : Nat) (b : Byte) (k : Nat) :
    Memory.find (Memory.insert m a b) k = if k = a then some b else Memory.find m k := by
  induction m with
  | nil => simp [Memory.insert, Memory.find, eq_comm (a := a)]
  | cons cell rest ih =>
    obtain ⟨k', b'⟩ := cell
    simp only [Memory.insert]
    split
    · simp [Memory.find, eq_comm (a := a)]
    split
    · subst_vars
      by_cases h : k = k' <;> simp [Memory.find, h, eq_comm (a := k')]
    · simp only [Memory.find, ih]
      split <;> split <;> simp_all

theorem Memory.find_erase (m : Memory) (a k : Nat) :
    Memory.find (Memory.erase m a) k = if k = a then none else Memory.find m k := by
  induction m with
  | nil => simp [Memory.erase, Memory.find]
  | cons cell rest ih =>
    obtain ⟨k', b'⟩ := cell
    simp only [Memory.erase, List.filter_cons] at ih ⊢
    by_cases h : k' = a <;> by_cases h2 : k = a <;> by_cases h3 : k' = k <;> simp_all [Memory.find]

/-- A read after a store gives the stored byte at its address and the old byte elsewhere. -/
theorem Memory.read_write (c : Config) (m : Memory) (a : Nat) (b : Byte) (k : Nat) :
    Memory.read c (Memory.write c m a b) k = if k = a then b else Memory.read c m k := by
  unfold Memory.read Memory.write
  split
  · rw [Memory.find_erase]; split <;> simp_all
  · rw [Memory.find_insert]; split <;> simp_all

theorem Memory.mem_insert (m : Memory) (a : Nat) (b : Byte) (cell : Host.Cell)
    (h : cell ∈ Memory.insert m a b) : cell = (a, b) ∨ cell ∈ m := by
  induction m with
  | nil => simpa [Memory.insert] using h
  | cons head rest ih =>
    obtain ⟨k', b'⟩ := head
    simp only [Memory.insert] at h
    split at h
    · simpa using h
    split at h
    · simp only [List.mem_cons] at h ⊢; tauto
    · simp only [List.mem_cons] at h ⊢
      rcases h with h | h
      · tauto
      · rcases ih h with h | h <;> tauto

theorem Memory.sorted_insert (m : Memory) (a : Nat) (b : Byte)
    (h : m.Pairwise (fun p q => p.1 < q.1)) :
    (Memory.insert m a b).Pairwise (fun p q => p.1 < q.1) := by
  induction m with
  | nil => simp [Memory.insert]
  | cons head rest ih =>
    obtain ⟨k', b'⟩ := head
    rw [List.pairwise_cons] at h
    simp only [Memory.insert]
    split
    · rename_i hlt
      refine List.pairwise_cons.2 ⟨fun cell hc => ?_, List.pairwise_cons.2 h⟩
      rcases List.mem_cons.1 hc with rfl | hc
      · exact hlt
      · exact Nat.lt_trans hlt (h.1 cell hc)
    split
    · subst_vars; exact List.pairwise_cons.2 h
    · refine List.pairwise_cons.2 ⟨fun cell hc => ?_, ih h.2⟩
      rcases Memory.mem_insert _ _ _ _ hc with rfl | hc
      · show k' < a; omega
      · exact h.1 cell hc

/-- A store inside Memory keeps the canonical form. -/
theorem Memory.wf_write (c : Config) (m : Memory) (a : Nat) (b : Byte) (h : Memory.wf c m)
    (ha : a < c.memSize) : Memory.wf c (Memory.write c m a b) := by
  unfold Memory.write
  split
  · exact ⟨h.1.filter _, fun cell hc => h.2 cell (List.mem_filter.1 hc).1⟩
  · refine ⟨Memory.sorted_insert m a b h.1, fun cell hc => ?_⟩
    rcases Memory.mem_insert _ _ _ _ hc with rfl | hc
    · exact ⟨ha, by assumption⟩
    · exact h.2 cell hc

/-- The memory of State.reset, with nothing listed, is canonical under every configuration. -/
theorem Memory.wf_nil (c : Config) : Memory.wf c [] := by simp [Memory.wf]

theorem Memory.find_none (m : Memory) (k : Nat) (h : ∀ cell ∈ m, k < cell.1) : Memory.find m k = none := by
  induction m with
  | nil => rfl
  | cons head rest ih =>
    obtain ⟨k', b'⟩ := head
    have := h _ (List.mem_cons_self ..)
    rw [Memory.find, if_neg (by simp at this; omega), ih fun cell hc => h cell (List.mem_cons_of_mem _ hc)]

/-- In a list of cells in canonical form, the listed bytes are those that differ from the reset
contents. -/
theorem Memory.read_ne_iff (c : Config) (m : Memory) (h : Memory.wf c m) (k : Nat) :
    Memory.read c m k ≠ resetByte c k ↔ ∃ b, Memory.find m k = some b := by
  unfold Memory.read
  cases hf : Memory.find m k with
  | none => simp
  | some b =>
    suffices (k, b) ∈ m by simpa [hf] using (h.2 _ this).2
    clear h
    induction m with
    | nil => simp [Memory.find] at hf
    | cons head rest ih =>
      obtain ⟨k', b'⟩ := head
      rw [Memory.find] at hf
      split at hf
      · simp_all
      · exact List.mem_cons_of_mem _ (ih hf)

end Sys2Proof.Machine
end

