-- ==== Sys2Proof/Laws/State.lean ====
section
/-! SUPPORT. What each named operation of the machine does to each field of State, one lemma per field
per operation, so that no later proof unfolds a record update. -/

-- One theorem at a time: many at once exceed the memory limit of a check.
set_option Elab.async false

namespace Sys2Proof.Machine.State

@[simp] theorem setReg_cfg (s : State) (x : Reg) (b : Byte) : (s.setReg x b).cfg = s.cfg := rfl
@[simp] theorem setReg_i (s : State) (x : Reg) (b : Byte) : (s.setReg x b).i = s.i := rfl
@[simp] theorem setReg_pc (s : State) (x : Reg) (b : Byte) : (s.setReg x b).pc = s.pc := rfl
@[simp] theorem setReg_stack (s : State) (x : Reg) (b : Byte) : (s.setReg x b).stack = s.stack := rfl
@[simp] theorem setReg_sp (s : State) (x : Reg) (b : Byte) : (s.setReg x b).sp = s.sp := rfl
@[simp] theorem setReg_dt (s : State) (x : Reg) (b : Byte) : (s.setReg x b).dt = s.dt := rfl
@[simp] theorem setReg_st (s : State) (x : Reg) (b : Byte) : (s.setReg x b).st = s.st := rfl
@[simp] theorem setReg_mem (s : State) (x : Reg) (b : Byte) : (s.setReg x b).mem = s.mem := rfl
@[simp] theorem setReg_fb (s : State) (x : Reg) (b : Byte) : (s.setReg x b).fb = s.fb := rfl
@[simp] theorem setReg_keys (s : State) (x : Reg) (b : Byte) : (s.setReg x b).keys = s.keys := rfl
@[simp] theorem setReg_prevKeys (s : State) (x : Reg) (b : Byte) : (s.setReg x b).prevKeys = s.prevKeys := rfl
@[simp] theorem setReg_mode (s : State) (x : Reg) (b : Byte) : (s.setReg x b).mode = s.mode := rfl
@[simp] theorem setReg_pendingReg (s : State) (x : Reg) (b : Byte) : (s.setReg x b).pendingReg = s.pendingReg := rfl
@[simp] theorem setReg_stopReason (s : State) (x : Reg) (b : Byte) : (s.setReg x b).stopReason = s.stopReason := rfl
@[simp] theorem setReg_redraw (s : State) (x : Reg) (b : Byte) : (s.setReg x b).redraw = s.redraw := rfl
@[simp] theorem setReg_tone (s : State) (x : Reg) (b : Byte) : (s.setReg x b).tone = s.tone := rfl
@[simp] theorem setReg_diag (s : State) (x : Reg) (b : Byte) : (s.setReg x b).diag = s.diag := rfl
@[simp] theorem setReg_rndIn (s : State) (x : Reg) (b : Byte) : (s.setReg x b).rndIn = s.rndIn := rfl
@[simp] theorem setReg_inputs (s : State) (x : Reg) (b : Byte) : (s.setReg x b).inputs = s.inputs := rfl
@[simp] theorem setReg_freeDrawn (s : State) (x : Reg) (b : Byte) : (s.setReg x b).freeDrawn = s.freeDrawn := rfl

@[simp] theorem setRegFlag_cfg (s : State) (x : Reg) (b : Byte) (f : Bool) : (s.setRegFlag x b f).cfg = s.cfg := rfl
@[simp] theorem setRegFlag_i (s : State) (x : Reg) (b : Byte) (f : Bool) : (s.setRegFlag x b f).i = s.i := rfl
@[simp] theorem setRegFlag_pc (s : State) (x : Reg) (b : Byte) (f : Bool) : (s.setRegFlag x b f).pc = s.pc := rfl
@[simp] theorem setRegFlag_stack (s : State) (x : Reg) (b : Byte) (f : Bool) : (s.setRegFlag x b f).stack = s.stack := rfl
@[simp] theorem setRegFlag_sp (s : State) (x : Reg) (b : Byte) (f : Bool) : (s.setRegFlag x b f).sp = s.sp := rfl
@[simp] theorem setRegFlag_dt (s : State) (x : Reg) (b : Byte) (f : Bool) : (s.setRegFlag x b f).dt = s.dt := rfl
@[simp] theorem setRegFlag_st (s : State) (x : Reg) (b : Byte) (f : Bool) : (s.setRegFlag x b f).st = s.st := rfl
@[simp] theorem setRegFlag_mem (s : State) (x : Reg) (b : Byte) (f : Bool) : (s.setRegFlag x b f).mem = s.mem := rfl
@[simp] theorem setRegFlag_fb (s : State) (x : Reg) (b : Byte) (f : Bool) : (s.setRegFlag x b f).fb = s.fb := rfl
@[simp] theorem setRegFlag_keys (s : State) (x : Reg) (b : Byte) (f : Bool) : (s.setRegFlag x b f).keys = s.keys := rfl
@[simp] theorem setRegFlag_prevKeys (s : State) (x : Reg) (b : Byte) (f : Bool) : (s.setRegFlag x b f).prevKeys = s.prevKeys := rfl
@[simp] theorem setRegFlag_mode (s : State) (x : Reg) (b : Byte) (f : Bool) : (s.setRegFlag x b f).mode = s.mode := rfl
@[simp] theorem setRegFlag_pendingReg (s : State) (x : Reg) (b : Byte) (f : Bool) : (s.setRegFlag x b f).pendingReg = s.pendingReg := rfl
@[simp] theorem setRegFlag_stopReason (s : State) (x : Reg) (b : Byte) (f : Bool) : (s.setRegFlag x b f).stopReason = s.stopReason := rfl
@[simp] theorem setRegFlag_redraw (s : State) (x : Reg) (b : Byte) (f : Bool) : (s.setRegFlag x b f).redraw = s.redraw := rfl
@[simp] theorem setRegFlag_tone (s : State) (x : Reg) (b : Byte) (f : Bool) : (s.setRegFlag x b f).tone = s.tone := rfl
@[simp] theorem setRegFlag_diag (s : State) (x : Reg) (b : Byte) (f : Bool) : (s.setRegFlag x b f).diag = s.diag := rfl
@[simp] theorem setRegFlag_rndIn (s : State) (x : Reg) (b : Byte) (f : Bool) : (s.setRegFlag x b f).rndIn = s.rndIn := rfl
@[simp] theorem setRegFlag_inputs (s : State) (x : Reg) (b : Byte) (f : Bool) : (s.setRegFlag x b f).inputs = s.inputs := rfl
@[simp] theorem setRegFlag_freeDrawn (s : State) (x : Reg) (b : Byte) (f : Bool) : (s.setRegFlag x b f).freeDrawn = s.freeDrawn := rfl

@[simp] theorem putByte_cfg (s : State) (a : Nat) (b : Byte) : (s.putByte a b).cfg = s.cfg := rfl
@[simp] theorem putByte_v (s : State) (a : Nat) (b : Byte) : (s.putByte a b).v = s.v := rfl
@[simp] theorem putByte_i (s : State) (a : Nat) (b : Byte) : (s.putByte a b).i = s.i := rfl
@[simp] theorem putByte_pc (s : State) (a : Nat) (b : Byte) : (s.putByte a b).pc = s.pc := rfl
@[simp] theorem putByte_stack (s : State) (a : Nat) (b : Byte) : (s.putByte a b).stack = s.stack := rfl
@[simp] theorem putByte_sp (s : State) (a : Nat) (b : Byte) : (s.putByte a b).sp = s.sp := rfl
@[simp] theorem putByte_dt (s : State) (a : Nat) (b : Byte) : (s.putByte a b).dt = s.dt := rfl
@[simp] theorem putByte_st (s : State) (a : Nat) (b : Byte) : (s.putByte a b).st = s.st := rfl
@[simp] theorem putByte_mem (s : State) (a : Nat) (b : Byte) :
    (s.putByte a b).mem = Memory.write s.cfg s.mem a b := rfl
@[simp] theorem putByte_fb (s : State) (a : Nat) (b : Byte) : (s.putByte a b).fb = s.fb := rfl
@[simp] theorem putByte_keys (s : State) (a : Nat) (b : Byte) : (s.putByte a b).keys = s.keys := rfl
@[simp] theorem putByte_prevKeys (s : State) (a : Nat) (b : Byte) : (s.putByte a b).prevKeys = s.prevKeys := rfl
@[simp] theorem putByte_mode (s : State) (a : Nat) (b : Byte) : (s.putByte a b).mode = s.mode := rfl
@[simp] theorem putByte_pendingReg (s : State) (a : Nat) (b : Byte) : (s.putByte a b).pendingReg = s.pendingReg := rfl
@[simp] theorem putByte_stopReason (s : State) (a : Nat) (b : Byte) : (s.putByte a b).stopReason = s.stopReason := rfl
@[simp] theorem putByte_redraw (s : State) (a : Nat) (b : Byte) : (s.putByte a b).redraw = s.redraw := rfl
@[simp] theorem putByte_tone (s : State) (a : Nat) (b : Byte) : (s.putByte a b).tone = s.tone := rfl
@[simp] theorem putByte_diag (s : State) (a : Nat) (b : Byte) : (s.putByte a b).diag = s.diag := rfl
@[simp] theorem putByte_rndIn (s : State) (a : Nat) (b : Byte) : (s.putByte a b).rndIn = s.rndIn := rfl
@[simp] theorem putByte_inputs (s : State) (a : Nat) (b : Byte) : (s.putByte a b).inputs = s.inputs := rfl
@[simp] theorem putByte_freeDrawn (s : State) (a : Nat) (b : Byte) : (s.putByte a b).freeDrawn = s.freeDrawn := rfl

@[simp] theorem next_cfg (s : State) : (s.next).cfg = s.cfg := rfl
@[simp] theorem next_v (s : State) : (s.next).v = s.v := rfl
@[simp] theorem next_i (s : State) : (s.next).i = s.i := rfl
@[simp] theorem next_pc (s : State) : (s.next).pc = s.pc + 2 := rfl
@[simp] theorem next_stack (s : State) : (s.next).stack = s.stack := rfl
@[simp] theorem next_sp (s : State) : (s.next).sp = s.sp := rfl
@[simp] theorem next_dt (s : State) : (s.next).dt = s.dt := rfl
@[simp] theorem next_st (s : State) : (s.next).st = s.st := rfl
@[simp] theorem next_mem (s : State) : (s.next).mem = s.mem := rfl
@[simp] theorem next_fb (s : State) : (s.next).fb = s.fb := rfl
@[simp] theorem next_keys (s : State) : (s.next).keys = s.keys := rfl
@[simp] theorem next_prevKeys (s : State) : (s.next).prevKeys = s.prevKeys := rfl
@[simp] theorem next_mode (s : State) : (s.next).mode = s.mode := rfl
@[simp] theorem next_pendingReg (s : State) : (s.next).pendingReg = s.pendingReg := rfl
@[simp] theorem next_stopReason (s : State) : (s.next).stopReason = s.stopReason := rfl
@[simp] theorem next_redraw (s : State) : (s.next).redraw = s.redraw := rfl
@[simp] theorem next_tone (s : State) : (s.next).tone = s.tone := rfl
@[simp] theorem next_diag (s : State) : (s.next).diag = s.diag := rfl
@[simp] theorem next_rndIn (s : State) : (s.next).rndIn = s.rndIn := rfl
@[simp] theorem next_inputs (s : State) : (s.next).inputs = s.inputs := rfl
@[simp] theorem next_freeDrawn (s : State) : (s.next).freeDrawn = s.freeDrawn := rfl

@[simp] theorem skipIf_cfg (s : State) (c : Bool) : (s.skipIf c).cfg = s.cfg := rfl
@[simp] theorem skipIf_v (s : State) (c : Bool) : (s.skipIf c).v = s.v := rfl
@[simp] theorem skipIf_i (s : State) (c : Bool) : (s.skipIf c).i = s.i := rfl
@[simp] theorem skipIf_pc (s : State) (c : Bool) : (s.skipIf c).pc = s.pc + (if c then 4 else 2) := rfl
@[simp] theorem skipIf_stack (s : State) (c : Bool) : (s.skipIf c).stack = s.stack := rfl
@[simp] theorem skipIf_sp (s : State) (c : Bool) : (s.skipIf c).sp = s.sp := rfl
@[simp] theorem skipIf_dt (s : State) (c : Bool) : (s.skipIf c).dt = s.dt := rfl
@[simp] theorem skipIf_st (s : State) (c : Bool) : (s.skipIf c).st = s.st := rfl
@[simp] theorem skipIf_mem (s : State) (c : Bool) : (s.skipIf c).mem = s.mem := rfl
@[simp] theorem skipIf_fb (s : State) (c : Bool) : (s.skipIf c).fb = s.fb := rfl
@[simp] theorem skipIf_keys (s : State) (c : Bool) : (s.skipIf c).keys = s.keys := rfl
@[simp] theorem skipIf_prevKeys (s : State) (c : Bool) : (s.skipIf c).prevKeys = s.prevKeys := rfl
@[simp] theorem skipIf_mode (s : State) (c : Bool) : (s.skipIf c).mode = s.mode := rfl
@[simp] theorem skipIf_pendingReg (s : State) (c : Bool) : (s.skipIf c).pendingReg = s.pendingReg := rfl
@[simp] theorem skipIf_stopReason (s : State) (c : Bool) : (s.skipIf c).stopReason = s.stopReason := rfl
@[simp] theorem skipIf_redraw (s : State) (c : Bool) : (s.skipIf c).redraw = s.redraw := rfl
@[simp] theorem skipIf_tone (s : State) (c : Bool) : (s.skipIf c).tone = s.tone := rfl
@[simp] theorem skipIf_diag (s : State) (c : Bool) : (s.skipIf c).diag = s.diag := rfl
@[simp] theorem skipIf_rndIn (s : State) (c : Bool) : (s.skipIf c).rndIn = s.rndIn := rfl
@[simp] theorem skipIf_inputs (s : State) (c : Bool) : (s.skipIf c).inputs = s.inputs := rfl
@[simp] theorem skipIf_freeDrawn (s : State) (c : Bool) : (s.skipIf c).freeDrawn = s.freeDrawn := rfl

@[simp] theorem jump_cfg (s : State) (t : Pc) : (s.jump t).cfg = s.cfg := rfl
@[simp] theorem jump_v (s : State) (t : Pc) : (s.jump t).v = s.v := rfl
@[simp] theorem jump_i (s : State) (t : Pc) : (s.jump t).i = s.i := rfl
@[simp] theorem jump_pc (s : State) (t : Pc) : (s.jump t).pc = t := rfl
@[simp] theorem jump_stack (s : State) (t : Pc) : (s.jump t).stack = s.stack := rfl
@[simp] theorem jump_sp (s : State) (t : Pc) : (s.jump t).sp = s.sp := rfl
@[simp] theorem jump_dt (s : State) (t : Pc) : (s.jump t).dt = s.dt := rfl
@[simp] theorem jump_st (s : State) (t : Pc) : (s.jump t).st = s.st := rfl
@[simp] theorem jump_mem (s : State) (t : Pc) : (s.jump t).mem = s.mem := rfl
@[simp] theorem jump_fb (s : State) (t : Pc) : (s.jump t).fb = s.fb := rfl
@[simp] theorem jump_keys (s : State) (t : Pc) : (s.jump t).keys = s.keys := rfl
@[simp] theorem jump_prevKeys (s : State) (t : Pc) : (s.jump t).prevKeys = s.prevKeys := rfl
@[simp] theorem jump_mode (s : State) (t : Pc) : (s.jump t).mode = s.mode := rfl
@[simp] theorem jump_pendingReg (s : State) (t : Pc) : (s.jump t).pendingReg = s.pendingReg := rfl
@[simp] theorem jump_stopReason (s : State) (t : Pc) : (s.jump t).stopReason = s.stopReason := rfl
@[simp] theorem jump_redraw (s : State) (t : Pc) : (s.jump t).redraw = s.redraw := rfl
@[simp] theorem jump_tone (s : State) (t : Pc) : (s.jump t).tone = s.tone := rfl
@[simp] theorem jump_diag (s : State) (t : Pc) : (s.jump t).diag = s.diag := rfl
@[simp] theorem jump_rndIn (s : State) (t : Pc) : (s.jump t).rndIn = s.rndIn := rfl
@[simp] theorem jump_inputs (s : State) (t : Pc) : (s.jump t).inputs = s.inputs := rfl
@[simp] theorem jump_freeDrawn (s : State) (t : Pc) : (s.jump t).freeDrawn = s.freeDrawn := rfl

@[simp] theorem stop_cfg (s : State) (w : StopReason) : (s.stop w).cfg = s.cfg := rfl
@[simp] theorem stop_v (s : State) (w : StopReason) : (s.stop w).v = s.v := rfl
@[simp] theorem stop_i (s : State) (w : StopReason) : (s.stop w).i = s.i := rfl
@[simp] theorem stop_pc (s : State) (w : StopReason) : (s.stop w).pc = s.pc := rfl
@[simp] theorem stop_stack (s : State) (w : StopReason) : (s.stop w).stack = s.stack := rfl
@[simp] theorem stop_sp (s : State) (w : StopReason) : (s.stop w).sp = s.sp := rfl
@[simp] theorem stop_dt (s : State) (w : StopReason) : (s.stop w).dt = s.dt := rfl
@[simp] theorem stop_st (s : State) (w : StopReason) : (s.stop w).st = s.st := rfl
@[simp] theorem stop_mem (s : State) (w : StopReason) : (s.stop w).mem = s.mem := rfl
@[simp] theorem stop_fb (s : State) (w : StopReason) : (s.stop w).fb = s.fb := rfl
@[simp] theorem stop_keys (s : State) (w : StopReason) : (s.stop w).keys = s.keys := rfl
@[simp] theorem stop_prevKeys (s : State) (w : StopReason) : (s.stop w).prevKeys = s.prevKeys := rfl
@[simp] theorem stop_mode (s : State) (w : StopReason) : (s.stop w).mode = .stopped := rfl
@[simp] theorem stop_pendingReg (s : State) (w : StopReason) : (s.stop w).pendingReg = s.pendingReg := rfl
@[simp] theorem stop_stopReason (s : State) (w : StopReason) : (s.stop w).stopReason = some w := rfl
@[simp] theorem stop_redraw (s : State) (w : StopReason) : (s.stop w).redraw = s.redraw := rfl
@[simp] theorem stop_tone (s : State) (w : StopReason) : (s.stop w).tone = s.tone := rfl
@[simp] theorem stop_diag (s : State) (w : StopReason) : (s.stop w).diag = s.diag := rfl
@[simp] theorem stop_rndIn (s : State) (w : StopReason) : (s.stop w).rndIn = s.rndIn := rfl
@[simp] theorem stop_inputs (s : State) (w : StopReason) : (s.stop w).inputs = s.inputs := rfl
@[simp] theorem stop_freeDrawn (s : State) (w : StopReason) : (s.stop w).freeDrawn = s.freeDrawn := rfl

@[simp] theorem fatal_cfg (s : State) (k : FatalKind) (w : Option Word) (a : Option Nat) :
    (s.fatal k w a).cfg = s.cfg := rfl
@[simp] theorem fatal_v (s : State) (k : FatalKind) (w : Option Word) (a : Option Nat) :
    (s.fatal k w a).v = s.v := rfl
@[simp] theorem fatal_i (s : State) (k : FatalKind) (w : Option Word) (a : Option Nat) :
    (s.fatal k w a).i = s.i := rfl
@[simp] theorem fatal_pc (s : State) (k : FatalKind) (w : Option Word) (a : Option Nat) :
    (s.fatal k w a).pc = s.pc := rfl
@[simp] theorem fatal_stack (s : State) (k : FatalKind) (w : Option Word) (a : Option Nat) :
    (s.fatal k w a).stack = s.stack := rfl
@[simp] theorem fatal_sp (s : State) (k : FatalKind) (w : Option Word) (a : Option Nat) :
    (s.fatal k w a).sp = s.sp := rfl
@[simp] theorem fatal_dt (s : State) (k : FatalKind) (w : Option Word) (a : Option Nat) :
    (s.fatal k w a).dt = s.dt := rfl
@[simp] theorem fatal_st (s : State) (k : FatalKind) (w : Option Word) (a : Option Nat) :
    (s.fatal k w a).st = s.st := rfl
@[simp] theorem fatal_mem (s : State) (k : FatalKind) (w : Option Word) (a : Option Nat) :
    (s.fatal k w a).mem = s.mem := rfl
@[simp] theorem fatal_fb (s : State) (k : FatalKind) (w : Option Word) (a : Option Nat) :
    (s.fatal k w a).fb = s.fb := rfl
@[simp] theorem fatal_keys (s : State) (k : FatalKind) (w : Option Word) (a : Option Nat) :
    (s.fatal k w a).keys = s.keys := rfl
@[simp] theorem fatal_prevKeys (s : State) (k : FatalKind) (w : Option Word) (a : Option Nat) :
    (s.fatal k w a).prevKeys = s.prevKeys := rfl
@[simp] theorem fatal_mode (s : State) (k : FatalKind) (w : Option Word) (a : Option Nat) :
    (s.fatal k w a).mode = .stopped := rfl
@[simp] theorem fatal_pendingReg (s : State) (k : FatalKind) (w : Option Word) (a : Option Nat) :
    (s.fatal k w a).pendingReg = s.pendingReg := rfl
@[simp] theorem fatal_stopReason (s : State) (k : FatalKind) (w : Option Word) (a : Option Nat) :
    (s.fatal k w a).stopReason = some (.fatal k) := rfl
@[simp] theorem fatal_redraw (s : State) (k : FatalKind) (w : Option Word) (a : Option Nat) :
    (s.fatal k w a).redraw = false := rfl
@[simp] theorem fatal_tone (s : State) (k : FatalKind) (w : Option Word) (a : Option Nat) :
    (s.fatal k w a).tone = false := rfl
@[simp] theorem fatal_diag (s : State) (k : FatalKind) (w : Option Word) (a : Option Nat) :
    (s.fatal k w a).diag = some { kind := k, word := w, pc := some s.pc, addr := a, length := none } := rfl
@[simp] theorem fatal_rndIn (s : State) (k : FatalKind) (w : Option Word) (a : Option Nat) :
    (s.fatal k w a).rndIn = s.rndIn := rfl
@[simp] theorem fatal_inputs (s : State) (k : FatalKind) (w : Option Word) (a : Option Nat) :
    (s.fatal k w a).inputs = s.inputs := rfl
@[simp] theorem fatal_freeDrawn (s : State) (k : FatalKind) (w : Option Word) (a : Option Nat) :
    (s.fatal k w a).freeDrawn = s.freeDrawn := rfl

@[simp] theorem refresh_cfg (s : State) : (s.refresh).cfg = s.cfg := rfl
@[simp] theorem refresh_v (s : State) : (s.refresh).v = s.v := rfl
@[simp] theorem refresh_i (s : State) : (s.refresh).i = s.i := rfl
@[simp] theorem refresh_pc (s : State) : (s.refresh).pc = s.pc := rfl
@[simp] theorem refresh_stack (s : State) : (s.refresh).stack = s.stack := rfl
@[simp] theorem refresh_sp (s : State) : (s.refresh).sp = s.sp := rfl
@[simp] theorem refresh_dt (s : State) : (s.refresh).dt = s.dt := rfl
@[simp] theorem refresh_st (s : State) : (s.refresh).st = s.st := rfl
@[simp] theorem refresh_mem (s : State) : (s.refresh).mem = s.mem := rfl
@[simp] theorem refresh_fb (s : State) : (s.refresh).fb = s.fb := rfl
@[simp] theorem refresh_keys (s : State) : (s.refresh).keys = s.input.keys := rfl
@[simp] theorem refresh_prevKeys (s : State) : (s.refresh).prevKeys = s.keys := rfl
@[simp] theorem refresh_mode (s : State) : (s.refresh).mode = s.mode := rfl
@[simp] theorem refresh_pendingReg (s : State) : (s.refresh).pendingReg = s.pendingReg := rfl
@[simp] theorem refresh_stopReason (s : State) : (s.refresh).stopReason = s.stopReason := rfl
@[simp] theorem refresh_redraw (s : State) : (s.refresh).redraw = false := rfl
@[simp] theorem refresh_tone (s : State) : (s.refresh).tone = s.tone := rfl
@[simp] theorem refresh_diag (s : State) : (s.refresh).diag = none := rfl
@[simp] theorem refresh_rndIn (s : State) : (s.refresh).rndIn = s.input.rnd := rfl
@[simp] theorem refresh_inputs (s : State) : (s.refresh).inputs = s.inputs.tail := rfl
@[simp] theorem refresh_freeDrawn (s : State) :
    (s.refresh).freeDrawn = if s.inputs.isEmpty then s.freeDrawn + 1 else s.freeDrawn := rfl

@[simp] theorem decrementTimers_cfg (s : State) : (s.decrementTimers).cfg = s.cfg := rfl
@[simp] theorem decrementTimers_v (s : State) : (s.decrementTimers).v = s.v := rfl
@[simp] theorem decrementTimers_i (s : State) : (s.decrementTimers).i = s.i := rfl
@[simp] theorem decrementTimers_pc (s : State) : (s.decrementTimers).pc = s.pc := rfl
@[simp] theorem decrementTimers_stack (s : State) : (s.decrementTimers).stack = s.stack := rfl
@[simp] theorem decrementTimers_sp (s : State) : (s.decrementTimers).sp = s.sp := rfl
@[simp] theorem decrementTimers_dt (s : State) : (s.decrementTimers).dt = if s.dt = 0 then 0 else s.dt - 1 := rfl
@[simp] theorem decrementTimers_st (s : State) : (s.decrementTimers).st = if s.st = 0 then 0 else s.st - 1 := rfl
@[simp] theorem decrementTimers_mem (s : State) : (s.decrementTimers).mem = s.mem := rfl
@[simp] theorem decrementTimers_fb (s : State) : (s.decrementTimers).fb = s.fb := rfl
@[simp] theorem decrementTimers_keys (s : State) : (s.decrementTimers).keys = s.keys := rfl
@[simp] theorem decrementTimers_prevKeys (s : State) : (s.decrementTimers).prevKeys = s.prevKeys := rfl
@[simp] theorem decrementTimers_mode (s : State) : (s.decrementTimers).mode = s.mode := rfl
@[simp] theorem decrementTimers_pendingReg (s : State) : (s.decrementTimers).pendingReg = s.pendingReg := rfl
@[simp] theorem decrementTimers_stopReason (s : State) : (s.decrementTimers).stopReason = s.stopReason := rfl
@[simp] theorem decrementTimers_redraw (s : State) : (s.decrementTimers).redraw = s.redraw := rfl
@[simp] theorem decrementTimers_tone (s : State) : (s.decrementTimers).tone = s.tone := rfl
@[simp] theorem decrementTimers_diag (s : State) : (s.decrementTimers).diag = s.diag := rfl
@[simp] theorem decrementTimers_rndIn (s : State) : (s.decrementTimers).rndIn = s.rndIn := rfl
@[simp] theorem decrementTimers_inputs (s : State) : (s.decrementTimers).inputs = s.inputs := rfl
@[simp] theorem decrementTimers_freeDrawn (s : State) : (s.decrementTimers).freeDrawn = s.freeDrawn := rfl

@[simp] theorem finish_cfg (s : State) : (s.finish).cfg = s.cfg := rfl
@[simp] theorem finish_v (s : State) : (s.finish).v = s.v := rfl
@[simp] theorem finish_i (s : State) : (s.finish).i = s.i := rfl
@[simp] theorem finish_pc (s : State) : (s.finish).pc = s.pc := rfl
@[simp] theorem finish_stack (s : State) : (s.finish).stack = s.stack := rfl
@[simp] theorem finish_sp (s : State) : (s.finish).sp = s.sp := rfl
@[simp] theorem finish_dt (s : State) : (s.finish).dt = s.dt := rfl
@[simp] theorem finish_st (s : State) : (s.finish).st = s.st := rfl
@[simp] theorem finish_mem (s : State) : (s.finish).mem = s.mem := rfl
@[simp] theorem finish_fb (s : State) : (s.finish).fb = s.fb := rfl
@[simp] theorem finish_keys (s : State) : (s.finish).keys = s.keys := rfl
@[simp] theorem finish_prevKeys (s : State) : (s.finish).prevKeys = s.prevKeys := rfl
@[simp] theorem finish_mode (s : State) : (s.finish).mode = s.mode := rfl
@[simp] theorem finish_pendingReg (s : State) : (s.finish).pendingReg = s.pendingReg := rfl
@[simp] theorem finish_stopReason (s : State) : (s.finish).stopReason = s.stopReason := rfl
@[simp] theorem finish_redraw (s : State) : (s.finish).redraw = decide (s.mode ≠ .stopped) := rfl
@[simp] theorem finish_tone (s : State) : (s.finish).tone = s.toneNow := rfl
@[simp] theorem finish_diag (s : State) : (s.finish).diag = s.diag := rfl
@[simp] theorem finish_rndIn (s : State) : (s.finish).rndIn = s.rndIn := rfl
@[simp] theorem finish_inputs (s : State) : (s.finish).inputs = s.inputs := rfl
@[simp] theorem finish_freeDrawn (s : State) : (s.finish).freeDrawn = s.freeDrawn := rfl

@[simp] theorem stoppedTick_cfg (s : State) : (s.stoppedTick).cfg = s.cfg := rfl
@[simp] theorem stoppedTick_v (s : State) : (s.stoppedTick).v = s.v := rfl
@[simp] theorem stoppedTick_i (s : State) : (s.stoppedTick).i = s.i := rfl
@[simp] theorem stoppedTick_pc (s : State) : (s.stoppedTick).pc = s.pc := rfl
@[simp] theorem stoppedTick_stack (s : State) : (s.stoppedTick).stack = s.stack := rfl
@[simp] theorem stoppedTick_sp (s : State) : (s.stoppedTick).sp = s.sp := rfl
@[simp] theorem stoppedTick_dt (s : State) : (s.stoppedTick).dt = s.dt := rfl
@[simp] theorem stoppedTick_st (s : State) : (s.stoppedTick).st = s.st := rfl
@[simp] theorem stoppedTick_mem (s : State) : (s.stoppedTick).mem = s.mem := rfl
@[simp] theorem stoppedTick_fb (s : State) : (s.stoppedTick).fb = s.fb := rfl
@[simp] theorem stoppedTick_keys (s : State) : (s.stoppedTick).keys = s.keys := rfl
@[simp] theorem stoppedTick_prevKeys (s : State) : (s.stoppedTick).prevKeys = s.prevKeys := rfl
@[simp] theorem stoppedTick_mode (s : State) : (s.stoppedTick).mode = s.mode := rfl
@[simp] theorem stoppedTick_pendingReg (s : State) : (s.stoppedTick).pendingReg = s.pendingReg := rfl
@[simp] theorem stoppedTick_stopReason (s : State) : (s.stoppedTick).stopReason = s.stopReason := rfl
@[simp] theorem stoppedTick_redraw (s : State) : (s.stoppedTick).redraw = false := rfl
@[simp] theorem stoppedTick_tone (s : State) : (s.stoppedTick).tone = false := rfl
@[simp] theorem stoppedTick_diag (s : State) : (s.stoppedTick).diag = none := rfl
@[simp] theorem stoppedTick_rndIn (s : State) : (s.stoppedTick).rndIn = s.rndIn := rfl
@[simp] theorem stoppedTick_inputs (s : State) : (s.stoppedTick).inputs = s.inputs := rfl
@[simp] theorem stoppedTick_freeDrawn (s : State) : (s.stoppedTick).freeDrawn = s.freeDrawn := rfl

@[simp] theorem quitTick_cfg (s : State) : s.quitTick.cfg = s.cfg := rfl
@[simp] theorem quitTick_v (s : State) : s.quitTick.v = s.v := rfl
@[simp] theorem quitTick_i (s : State) : s.quitTick.i = s.i := rfl
@[simp] theorem quitTick_pc (s : State) : s.quitTick.pc = s.pc := rfl
@[simp] theorem quitTick_stack (s : State) : s.quitTick.stack = s.stack := rfl
@[simp] theorem quitTick_sp (s : State) : s.quitTick.sp = s.sp := rfl
@[simp] theorem quitTick_dt (s : State) : s.quitTick.dt = s.dt := rfl
@[simp] theorem quitTick_st (s : State) : s.quitTick.st = s.st := rfl
@[simp] theorem quitTick_mem (s : State) : s.quitTick.mem = s.mem := rfl
@[simp] theorem quitTick_fb (s : State) : s.quitTick.fb = s.fb := rfl
@[simp] theorem quitTick_pendingReg (s : State) : s.quitTick.pendingReg = s.pendingReg := rfl
@[simp] theorem quitTick_keys (s : State) : s.quitTick.keys = s.input.keys := rfl
@[simp] theorem quitTick_prevKeys (s : State) : s.quitTick.prevKeys = s.keys := rfl
@[simp] theorem quitTick_mode (s : State) : s.quitTick.mode = .stopped := rfl
@[simp] theorem quitTick_stopReason (s : State) : s.quitTick.stopReason = some .quit := rfl
@[simp] theorem quitTick_redraw (s : State) : s.quitTick.redraw = false := rfl
@[simp] theorem quitTick_tone (s : State) : s.quitTick.tone = false := rfl
@[simp] theorem quitTick_diag (s : State) : s.quitTick.diag = none := rfl
@[simp] theorem quitTick_rndIn (s : State) : s.quitTick.rndIn = s.input.rnd := rfl
@[simp] theorem quitTick_inputs (s : State) : s.quitTick.inputs = s.inputs.tail := rfl

@[simp] theorem putBytes_cfg (s : State) (a : Nat) (bs : List Byte) : (s.putBytes a bs).cfg = s.cfg := by
  induction bs generalizing s a with
  | nil => rfl
  | cons b rest ih => simpa [putBytes] using ih (s.putByte a b) (a + 1)
@[simp] theorem putBytes_v (s : State) (a : Nat) (bs : List Byte) : (s.putBytes a bs).v = s.v := by
  induction bs generalizing s a with
  | nil => rfl
  | cons b rest ih => simpa [putBytes] using ih (s.putByte a b) (a + 1)
@[simp] theorem putBytes_i (s : State) (a : Nat) (bs : List Byte) : (s.putBytes a bs).i = s.i := by
  induction bs generalizing s a with
  | nil => rfl
  | cons b rest ih => simpa [putBytes] using ih (s.putByte a b) (a + 1)
@[simp] theorem putBytes_pc (s : State) (a : Nat) (bs : List Byte) : (s.putBytes a bs).pc = s.pc := by
  induction bs generalizing s a with
  | nil => rfl
  | cons b rest ih => simpa [putBytes] using ih (s.putByte a b) (a + 1)
@[simp] theorem putBytes_stack (s : State) (a : Nat) (bs : List Byte) : (s.putBytes a bs).stack = s.stack := by
  induction bs generalizing s a with
  | nil => rfl
  | cons b rest ih => simpa [putBytes] using ih (s.putByte a b) (a + 1)
@[simp] theorem putBytes_sp (s : State) (a : Nat) (bs : List Byte) : (s.putBytes a bs).sp = s.sp := by
  induction bs generalizing s a with
  | nil => rfl
  | cons b rest ih => simpa [putBytes] using ih (s.putByte a b) (a + 1)
@[simp] theorem putBytes_dt (s : State) (a : Nat) (bs : List Byte) : (s.putBytes a bs).dt = s.dt := by
  induction bs generalizing s a with
  | nil => rfl
  | cons b rest ih => simpa [putBytes] using ih (s.putByte a b) (a + 1)
@[simp] theorem putBytes_st (s : State) (a : Nat) (bs : List Byte) : (s.putBytes a bs).st = s.st := by
  induction bs generalizing s a with
  | nil => rfl
  | cons b rest ih => simpa [putBytes] using ih (s.putByte a b) (a + 1)
@[simp] theorem putBytes_fb (s : State) (a : Nat) (bs : List Byte) : (s.putBytes a bs).fb = s.fb := by
  induction bs generalizing s a with
  | nil => rfl
  | cons b rest ih => simpa [putBytes] using ih (s.putByte a b) (a + 1)
@[simp] theorem putBytes_keys (s : State) (a : Nat) (bs : List Byte) : (s.putBytes a bs).keys = s.keys := by
  induction bs generalizing s a with
  | nil => rfl
  | cons b rest ih => simpa [putBytes] using ih (s.putByte a b) (a + 1)
@[simp] theorem putBytes_prevKeys (s : State) (a : Nat) (bs : List Byte) : (s.putBytes a bs).prevKeys = s.prevKeys := by
  induction bs generalizing s a with
  | nil => rfl
  | cons b rest ih => simpa [putBytes] using ih (s.putByte a b) (a + 1)
@[simp] theorem putBytes_mode (s : State) (a : Nat) (bs : List Byte) : (s.putBytes a bs).mode = s.mode := by
  induction bs generalizing s a with
  | nil => rfl
  | cons b rest ih => simpa [putBytes] using ih (s.putByte a b) (a + 1)
@[simp] theorem putBytes_pendingReg (s : State) (a : Nat) (bs : List Byte) : (s.putBytes a bs).pendingReg = s.pendingReg := by
  induction bs generalizing s a with
  | nil => rfl
  | cons b rest ih => simpa [putBytes] using ih (s.putByte a b) (a + 1)
@[simp] theorem putBytes_stopReason (s : State) (a : Nat) (bs : List Byte) : (s.putBytes a bs).stopReason = s.stopReason := by
  induction bs generalizing s a with
  | nil => rfl
  | cons b rest ih => simpa [putBytes] using ih (s.putByte a b) (a + 1)
@[simp] theorem putBytes_redraw (s : State) (a : Nat) (bs : List Byte) : (s.putBytes a bs).redraw = s.redraw := by
  induction bs generalizing s a with
  | nil => rfl
  | cons b rest ih => simpa [putBytes] using ih (s.putByte a b) (a + 1)
@[simp] theorem putBytes_tone (s : State) (a : Nat) (bs : List Byte) : (s.putBytes a bs).tone = s.tone := by
  induction bs generalizing s a with
  | nil => rfl
  | cons b rest ih => simpa [putBytes] using ih (s.putByte a b) (a + 1)
@[simp] theorem putBytes_diag (s : State) (a : Nat) (bs : List Byte) : (s.putBytes a bs).diag = s.diag := by
  induction bs generalizing s a with
  | nil => rfl
  | cons b rest ih => simpa [putBytes] using ih (s.putByte a b) (a + 1)
@[simp] theorem putBytes_rndIn (s : State) (a : Nat) (bs : List Byte) : (s.putBytes a bs).rndIn = s.rndIn := by
  induction bs generalizing s a with
  | nil => rfl
  | cons b rest ih => simpa [putBytes] using ih (s.putByte a b) (a + 1)
@[simp] theorem putBytes_inputs (s : State) (a : Nat) (bs : List Byte) : (s.putBytes a bs).inputs = s.inputs := by
  induction bs generalizing s a with
  | nil => rfl
  | cons b rest ih => simpa [putBytes] using ih (s.putByte a b) (a + 1)
@[simp] theorem putBytes_freeDrawn (s : State) (a : Nat) (bs : List Byte) : (s.putBytes a bs).freeDrawn = s.freeDrawn := by
  induction bs generalizing s a with
  | nil => rfl
  | cons b rest ih => simpa [putBytes] using ih (s.putByte a b) (a + 1)

@[simp] theorem loadRegs_cfg (s : State) (a n : Nat) : (s.loadRegs a n).cfg = s.cfg := by
  induction n with
  | zero => rfl
  | succ n ih => simpa [loadRegs] using ih
@[simp] theorem loadRegs_i (s : State) (a n : Nat) : (s.loadRegs a n).i = s.i := by
  induction n with
  | zero => rfl
  | succ n ih => simpa [loadRegs] using ih
@[simp] theorem loadRegs_pc (s : State) (a n : Nat) : (s.loadRegs a n).pc = s.pc := by
  induction n with
  | zero => rfl
  | succ n ih => simpa [loadRegs] using ih
@[simp] theorem loadRegs_stack (s : State) (a n : Nat) : (s.loadRegs a n).stack = s.stack := by
  induction n with
  | zero => rfl
  | succ n ih => simpa [loadRegs] using ih
@[simp] theorem loadRegs_sp (s : State) (a n : Nat) : (s.loadRegs a n).sp = s.sp := by
  induction n with
  | zero => rfl
  | succ n ih => simpa [loadRegs] using ih
@[simp] theorem loadRegs_dt (s : State) (a n : Nat) : (s.loadRegs a n).dt = s.dt := by
  induction n with
  | zero => rfl
  | succ n ih => simpa [loadRegs] using ih
@[simp] theorem loadRegs_st (s : State) (a n : Nat) : (s.loadRegs a n).st = s.st := by
  induction n with
  | zero => rfl
  | succ n ih => simpa [loadRegs] using ih
@[simp] theorem loadRegs_mem (s : State) (a n : Nat) : (s.loadRegs a n).mem = s.mem := by
  induction n with
  | zero => rfl
  | succ n ih => simpa [loadRegs] using ih
@[simp] theorem loadRegs_fb (s : State) (a n : Nat) : (s.loadRegs a n).fb = s.fb := by
  induction n with
  | zero => rfl
  | succ n ih => simpa [loadRegs] using ih
@[simp] theorem loadRegs_keys (s : State) (a n : Nat) : (s.loadRegs a n).keys = s.keys := by
  induction n with
  | zero => rfl
  | succ n ih => simpa [loadRegs] using ih
@[simp] theorem loadRegs_prevKeys (s : State) (a n : Nat) : (s.loadRegs a n).prevKeys = s.prevKeys := by
  induction n with
  | zero => rfl
  | succ n ih => simpa [loadRegs] using ih
@[simp] theorem loadRegs_mode (s : State) (a n : Nat) : (s.loadRegs a n).mode = s.mode := by
  induction n with
  | zero => rfl
  | succ n ih => simpa [loadRegs] using ih
@[simp] theorem loadRegs_pendingReg (s : State) (a n : Nat) : (s.loadRegs a n).pendingReg = s.pendingReg := by
  induction n with
  | zero => rfl
  | succ n ih => simpa [loadRegs] using ih
@[simp] theorem loadRegs_stopReason (s : State) (a n : Nat) : (s.loadRegs a n).stopReason = s.stopReason := by
  induction n with
  | zero => rfl
  | succ n ih => simpa [loadRegs] using ih
@[simp] theorem loadRegs_redraw (s : State) (a n : Nat) : (s.loadRegs a n).redraw = s.redraw := by
  induction n with
  | zero => rfl
  | succ n ih => simpa [loadRegs] using ih
@[simp] theorem loadRegs_tone (s : State) (a n : Nat) : (s.loadRegs a n).tone = s.tone := by
  induction n with
  | zero => rfl
  | succ n ih => simpa [loadRegs] using ih
@[simp] theorem loadRegs_diag (s : State) (a n : Nat) : (s.loadRegs a n).diag = s.diag := by
  induction n with
  | zero => rfl
  | succ n ih => simpa [loadRegs] using ih
@[simp] theorem loadRegs_rndIn (s : State) (a n : Nat) : (s.loadRegs a n).rndIn = s.rndIn := by
  induction n with
  | zero => rfl
  | succ n ih => simpa [loadRegs] using ih
@[simp] theorem loadRegs_inputs (s : State) (a n : Nat) : (s.loadRegs a n).inputs = s.inputs := by
  induction n with
  | zero => rfl
  | succ n ih => simpa [loadRegs] using ih
@[simp] theorem loadRegs_freeDrawn (s : State) (a n : Nat) : (s.loadRegs a n).freeDrawn = s.freeDrawn := by
  induction n with
  | zero => rfl
  | succ n ih => simpa [loadRegs] using ih

@[simp] theorem begin_cfg (s : State) : s.begin.cfg = s.cfg := by unfold State.begin; split <;> rfl
@[simp] theorem begin_v (s : State) : s.begin.v = s.v := by unfold State.begin; split <;> rfl
@[simp] theorem begin_i (s : State) : s.begin.i = s.i := by unfold State.begin; split <;> rfl
@[simp] theorem begin_pc (s : State) : s.begin.pc = s.pc := by unfold State.begin; split <;> rfl
@[simp] theorem begin_stack (s : State) : s.begin.stack = s.stack := by unfold State.begin; split <;> rfl
@[simp] theorem begin_sp (s : State) : s.begin.sp = s.sp := by unfold State.begin; split <;> rfl
@[simp] theorem begin_mem (s : State) : s.begin.mem = s.mem := by unfold State.begin; split <;> rfl
@[simp] theorem begin_fb (s : State) : s.begin.fb = s.fb := by unfold State.begin; split <;> rfl
@[simp] theorem begin_mode (s : State) : s.begin.mode = s.mode := by unfold State.begin; split <;> rfl
@[simp] theorem begin_pendingReg (s : State) : s.begin.pendingReg = s.pendingReg := by unfold State.begin; split <;> rfl
@[simp] theorem begin_stopReason (s : State) : s.begin.stopReason = s.stopReason := by unfold State.begin; split <;> rfl
@[simp] theorem begin_tone (s : State) : s.begin.tone = s.tone := by unfold State.begin; split <;> rfl
@[simp] theorem begin_redraw (s : State) : s.begin.redraw = false := by unfold State.begin; split <;> rfl
@[simp] theorem begin_diag (s : State) : s.begin.diag = none := by unfold State.begin; split <;> rfl
@[simp] theorem begin_prevKeys (s : State) : s.begin.prevKeys = s.keys := by unfold State.begin; split <;> rfl
@[simp] theorem begin_keys (s : State) : s.begin.keys = s.input.keys := by unfold State.begin; split <;> rfl
@[simp] theorem begin_rndIn (s : State) : s.begin.rndIn = s.input.rnd := by unfold State.begin; split <;> rfl
@[simp] theorem begin_inputs (s : State) : s.begin.inputs = s.inputs.tail := by unfold State.begin; split <;> rfl
@[simp] theorem begin_freeDrawn (s : State) :
    s.begin.freeDrawn = if s.inputs.isEmpty then s.freeDrawn + 1 else s.freeDrawn := by
  unfold State.begin; split <;> rfl
@[simp] theorem begin_dt (s : State) :
    s.begin.dt = if s.input.strobe = true ∧ s.dt ≠ 0 then s.dt - 1 else s.dt := by
  unfold State.begin; split <;> by_cases h : s.dt = 0 <;> simp_all
@[simp] theorem begin_st (s : State) :
    s.begin.st = if s.input.strobe = true ∧ s.st ≠ 0 then s.st - 1 else s.st := by
  unfold State.begin; split <;> by_cases h : s.st = 0 <;> simp_all

@[simp] theorem unrecognized_cfg (s : State) (w : Word) : (s.unrecognized w).cfg = s.cfg := by
  unfold unrecognized; split <;> rfl
@[simp] theorem unrecognized_v (s : State) (w : Word) : (s.unrecognized w).v = s.v := by
  unfold unrecognized; split <;> rfl
@[simp] theorem unrecognized_i (s : State) (w : Word) : (s.unrecognized w).i = s.i := by
  unfold unrecognized; split <;> rfl
@[simp] theorem unrecognized_stack (s : State) (w : Word) : (s.unrecognized w).stack = s.stack := by
  unfold unrecognized; split <;> rfl
@[simp] theorem unrecognized_sp (s : State) (w : Word) : (s.unrecognized w).sp = s.sp := by
  unfold unrecognized; split <;> rfl
@[simp] theorem unrecognized_dt (s : State) (w : Word) : (s.unrecognized w).dt = s.dt := by
  unfold unrecognized; split <;> rfl
@[simp] theorem unrecognized_st (s : State) (w : Word) : (s.unrecognized w).st = s.st := by
  unfold unrecognized; split <;> rfl
@[simp] theorem unrecognized_mem (s : State) (w : Word) : (s.unrecognized w).mem = s.mem := by
  unfold unrecognized; split <;> rfl
@[simp] theorem unrecognized_fb (s : State) (w : Word) : (s.unrecognized w).fb = s.fb := by
  unfold unrecognized; split <;> rfl
@[simp] theorem unrecognized_keys (s : State) (w : Word) : (s.unrecognized w).keys = s.keys := by
  unfold unrecognized; split <;> rfl
@[simp] theorem unrecognized_prevKeys (s : State) (w : Word) : (s.unrecognized w).prevKeys = s.prevKeys := by
  unfold unrecognized; split <;> rfl
@[simp] theorem unrecognized_pendingReg (s : State) (w : Word) : (s.unrecognized w).pendingReg = s.pendingReg := by
  unfold unrecognized; split <;> rfl
@[simp] theorem unrecognized_rndIn (s : State) (w : Word) : (s.unrecognized w).rndIn = s.rndIn := by
  unfold unrecognized; split <;> rfl
@[simp] theorem unrecognized_inputs (s : State) (w : Word) : (s.unrecognized w).inputs = s.inputs := by
  unfold unrecognized; split <;> rfl
@[simp] theorem unrecognized_freeDrawn (s : State) (w : Word) : (s.unrecognized w).freeDrawn = s.freeDrawn := by
  unfold unrecognized; split <;> rfl

end Sys2Proof.Machine.State
end

