-- ==== Sys2Proof/Laws/Ops.lean ====
section
/-! SUPPORT. What the shared operations do, seen through the reads of one register, one byte and one
pixel, and everything a tick can do. -/

-- One theorem at a time: many at once exceed the memory limit of a check.
set_option Elab.async false

namespace Sys2Proof.Machine

namespace State

variable (s t : State)

/-- Registers depend on `v` alone. -/
theorem reg_congr (h : s.v = t.v) (x : Reg) : s.reg x = t.reg x := by simp only [reg, h]

/-- Bytes depend on the configuration and the memory alone. -/
theorem byte_congr (hc : s.cfg = t.cfg) (hm : s.mem = t.mem) (a : Nat) : s.byte a = t.byte a := by
  simp only [byte, hc, hm]

/-- Pixels depend on the framebuffer alone. -/
theorem pixel_congr (h : s.fb = t.fb) (x y : Nat) : s.pixel x y = t.pixel x y := by
  simp only [pixel, h]

/-- A register write changes its register and no other. -/
theorem reg_setReg (x : Reg) (b : Byte) (y : Reg) :
    (s.setReg x b).reg y = if y = x then b else s.reg y := by
  simp only [reg, setReg, Vector.getElem_set]
  by_cases h : y = x
  · simp [h]
  · rw [if_neg (fun e => h (BitVec.eq_of_toNat_eq e.symm)), if_neg h]

/-- Result to Vx, flag to VF, and the flag wins (42_register_alu.md R163). -/
theorem reg_setRegFlag (x : Reg) (b : Byte) (f : Bool) (y : Reg) :
    (s.setRegFlag x b f).reg y =
      if y = 15 then flagByte f else if y = x then b else s.reg y := by
  simp only [setRegFlag, reg_setReg]; rfl

@[simp] theorem next_reg (x : Reg) : s.next.reg x = s.reg x := rfl
@[simp] theorem skipIf_reg (c : Bool) (x : Reg) : (s.skipIf c).reg x = s.reg x := rfl
@[simp] theorem jump_reg (a : Pc) (x : Reg) : (s.jump a).reg x = s.reg x := rfl
@[simp] theorem stop_reg (w : StopReason) (x : Reg) : (s.stop w).reg x = s.reg x := rfl
@[simp] theorem fatal_reg (k : FatalKind) (w : Option Word) (a : Option Nat) (x : Reg) :
    (s.fatal k w a).reg x = s.reg x := rfl
@[simp] theorem putByte_reg (a : Nat) (b : Byte) (x : Reg) : (s.putByte a b).reg x = s.reg x := rfl
@[simp] theorem putBytes_reg (a : Nat) (bs : List Byte) (x : Reg) :
    (s.putBytes a bs).reg x = s.reg x := reg_congr _ _ (putBytes_v s a bs) x
@[simp] theorem begin_reg (x : Reg) : s.begin.reg x = s.reg x := reg_congr _ _ (begin_v s) x
@[simp] theorem finish_reg (x : Reg) : s.finish.reg x = s.reg x := rfl
@[simp] theorem unrecognized_reg (w : Word) (x : Reg) : (s.unrecognized w).reg x = s.reg x :=
  reg_congr _ _ (unrecognized_v s w) x

@[simp] theorem next_byte (a : Nat) : s.next.byte a = s.byte a := rfl
@[simp] theorem skipIf_byte (c : Bool) (a : Nat) : (s.skipIf c).byte a = s.byte a := rfl
@[simp] theorem jump_byte (t : Pc) (a : Nat) : (s.jump t).byte a = s.byte a := rfl
@[simp] theorem stop_byte (w : StopReason) (a : Nat) : (s.stop w).byte a = s.byte a := rfl
@[simp] theorem fatal_byte (k : FatalKind) (w : Option Word) (o : Option Nat) (a : Nat) :
    (s.fatal k w o).byte a = s.byte a := rfl
@[simp] theorem setReg_byte (x : Reg) (b : Byte) (a : Nat) : (s.setReg x b).byte a = s.byte a := rfl
@[simp] theorem setRegFlag_byte (x : Reg) (b : Byte) (f : Bool) (a : Nat) :
    (s.setRegFlag x b f).byte a = s.byte a := rfl
@[simp] theorem loadRegs_byte (a n k : Nat) : (s.loadRegs a n).byte k = s.byte k :=
  byte_congr _ _ (loadRegs_cfg s a n) (loadRegs_mem s a n) k
@[simp] theorem begin_byte (a : Nat) : s.begin.byte a = s.byte a :=
  byte_congr _ _ (begin_cfg s) (begin_mem s) a
@[simp] theorem finish_byte (a : Nat) : s.finish.byte a = s.byte a := rfl
@[simp] theorem unrecognized_byte (w : Word) (a : Nat) : (s.unrecognized w).byte a = s.byte a :=
  byte_congr _ _ (unrecognized_cfg s w) (unrecognized_mem s w) a

@[simp] theorem next_pixel (x y : Nat) : s.next.pixel x y = s.pixel x y := rfl
@[simp] theorem skipIf_pixel (c : Bool) (x y : Nat) : (s.skipIf c).pixel x y = s.pixel x y := rfl
@[simp] theorem jump_pixel (t : Pc) (x y : Nat) : (s.jump t).pixel x y = s.pixel x y := rfl
@[simp] theorem stop_pixel (w : StopReason) (x y : Nat) : (s.stop w).pixel x y = s.pixel x y := rfl
@[simp] theorem fatal_pixel (k : FatalKind) (w : Option Word) (o : Option Nat) (x y : Nat) :
    (s.fatal k w o).pixel x y = s.pixel x y := rfl
@[simp] theorem setReg_pixel (r : Reg) (b : Byte) (x y : Nat) :
    (s.setReg r b).pixel x y = s.pixel x y := rfl
@[simp] theorem setRegFlag_pixel (r : Reg) (b : Byte) (f : Bool) (x y : Nat) :
    (s.setRegFlag r b f).pixel x y = s.pixel x y := rfl
@[simp] theorem putBytes_pixel (a : Nat) (bs : List Byte) (x y : Nat) :
    (s.putBytes a bs).pixel x y = s.pixel x y := pixel_congr _ _ (putBytes_fb s a bs) x y
@[simp] theorem loadRegs_pixel (a n x y : Nat) : (s.loadRegs a n).pixel x y = s.pixel x y :=
  pixel_congr _ _ (loadRegs_fb s a n) x y
@[simp] theorem begin_pixel (x y : Nat) : s.begin.pixel x y = s.pixel x y :=
  pixel_congr _ _ (begin_fb s) x y
@[simp] theorem finish_pixel (x y : Nat) : s.finish.pixel x y = s.pixel x y := rfl
@[simp] theorem unrecognized_pixel (w : Word) (x y : Nat) :
    (s.unrecognized w).pixel x y = s.pixel x y := pixel_congr _ _ (unrecognized_fb s w) x y

/-- A byte store changes its address and no other. -/
theorem byte_putByte (a : Nat) (b : Byte) (k : Nat) :
    (s.putByte a b).byte k = if k = a then b else s.byte k := Memory.read_write s.cfg s.mem a b k

/-- A store of bytes changes exactly the addresses it covers. -/
theorem byte_putBytes (a : Nat) (bs : List Byte) (k : Nat) :
    (s.putBytes a bs).byte k = if a ≤ k ∧ k < a + bs.length then bs.getD (k - a) 0 else s.byte k := by
  induction bs generalizing s a with
  | nil => rw [if_neg (by simp)]; rfl
  | cons b rest ih =>
    rw [putBytes, ih, byte_putByte]
    by_cases h1 : k = a
    · subst h1; simp
    · by_cases h2 : a + 1 ≤ k ∧ k < a + 1 + rest.length
      · rw [if_pos h2, if_pos (by simp; omega), show k - a = k - (a + 1) + 1 by omega]; rfl
      · rw [if_neg h2, if_neg h1, if_neg (by simp; omega)]

/-- A store of bytes inside Memory keeps the canonical form. -/
theorem wf_putBytes (a : Nat) (bs : List Byte) (h : Memory.wf s.cfg s.mem)
    (hb : a + bs.length ≤ s.cfg.memSize) : Memory.wf s.cfg (s.putBytes a bs).mem := by
  induction bs generalizing s a with
  | nil => exact h
  | cons b rest ih =>
    simp only [List.length_cons] at hb
    have ha : a < s.cfg.memSize := by omega
    have hr : a + 1 + rest.length ≤ s.cfg.memSize := by omega
    exact ih (s.putByte a b) (a + 1) (Memory.wf_write s.cfg s.mem a b h ha) hr

/-- `loadRegs` loads V0 to V(n-1) and no other register. -/
theorem reg_loadRegs (a n : Nat) (hn : n ≤ 16) (x : Reg) :
    (s.loadRegs a n).reg x = if x.toNat < n then s.byte (a + x.toNat) else s.reg x := by
  induction n with
  | zero => simp [loadRegs]
  | succ n ih =>
    rw [loadRegs, reg_setReg, ih (by omega)]
    have hx : x = BitVec.ofNat 4 n ↔ x.toNat = n := by
      rw [← BitVec.toNat_inj, BitVec.toNat_ofNat, Nat.mod_eq_of_lt (by omega)]
    by_cases h : x.toNat = n
    · rw [if_pos (hx.2 h), if_pos (by omega), h]
    · rw [if_neg (fun e => h (hx.1 e))]
      by_cases h2 : x.toNat < n
      · rw [if_pos h2, if_pos (by omega)]
      · rw [if_neg h2, if_neg (by omega)]

@[simp] theorem firstRegs_length (n : Nat) : (s.firstRegs n).length = n := by simp [firstRegs]

@[simp] theorem bytes_length (a n : Nat) : (s.bytes a n).length = n := by simp [bytes]

/-- The stored bytes of LD [I],Vx are the registers in order. -/
theorem firstRegs_getD (n k : Nat) (h : k < n) : (s.firstRegs n).getD k 0 = s.reg (BitVec.ofNat 4 k) := by
  simp [firstRegs, h]

/-- An access that fits runs its effect. -/
theorem access_inside (i : Instr) (len : Nat) (effect : State → State)
    (h : s.i.toNat + len ≤ s.cfg.memSize) : s.access i len effect = .next (effect s) := by
  rw [access, outside, if_neg (by simp; omega)]

/-- An access that does not fit is fatal (60_exceptions.md R262). -/
theorem access_outside (i : Instr) (len : Nat) (effect : State → State) (hl : 0 < len)
    (h : s.cfg.memSize < s.i.toNat + len) :
    s.access i len effect =
      .next (s.fatal .dataBounds (some (encode i)) (some (max s.i.toNat s.cfg.memSize))) := by
  rw [access, outside, if_pos (by simp; omega)]; rfl

/-- LD B,Vx inside Memory. -/
theorem exec_ldB_inside (x : Reg) (h : s.i.toNat + 3 ≤ s.cfg.memSize) :
    exec (.ldB x) s = .next (s.putBytes s.i.toNat (decimalDigits (s.reg x))).next := by
  simp only [exec, execLdB]
  exact access_inside s _ _ _ h

/-- LD [I],Vx inside Memory. -/
theorem exec_stRegs_inside (x : Reg) (h : s.i.toNat + (x.toNat + 1) ≤ s.cfg.memSize) :
    exec (.stRegs x) s = .next (s.putBytes s.i.toNat (s.firstRegs (x.toNat + 1))).next := by
  simp only [exec, execStRegs]
  exact access_inside s _ _ _ h

/-- LD Vx,[I] inside Memory. -/
theorem exec_ldRegs_inside (x : Reg) (h : s.i.toNat + (x.toNat + 1) ≤ s.cfg.memSize) :
    exec (.ldRegs x) s = .next (s.loadRegs s.i.toNat (x.toNat + 1)).next := by
  simp only [exec, execLdRegs]
  exact access_inside s _ _ _ h

/-- DRW Vx,Vy,n inside Memory, or with no row. -/
theorem exec_drw_inside (x y : Reg) (n : Nat) (h : n = 0 ∨ s.i.toNat + n ≤ s.cfg.memSize) :
    exec (.drw x y n) s =
      .next ({ s with fb := (s.drawn x y n).fb }.setReg 15
        (flagByte (s.drawn x y n).collision)).next := by
  simp only [exec, execDrw]
  rw [access, outside, if_neg (by simp; omega)]
  rfl

/-- LD B,Vx outside Memory is fatal. -/
theorem exec_ldB_outside (x : Reg)
    (h : s.cfg.memSize < s.i.toNat + 3) :
    exec (.ldB x) s = .next (s.fatal .dataBounds (some (encode (.ldB x)))
      (some (max s.i.toNat s.cfg.memSize))) := by
  simp only [exec, execLdB]
  exact access_outside s _ _ _ (by omega) h

/-- LD [I],Vx outside Memory is fatal. -/
theorem exec_stRegs_outside (x : Reg)
    (h : s.cfg.memSize < s.i.toNat + (x.toNat + 1)) :
    exec (.stRegs x) s = .next (s.fatal .dataBounds (some (encode (.stRegs x)))
      (some (max s.i.toNat s.cfg.memSize))) := by
  simp only [exec, execStRegs]
  exact access_outside s _ _ _ (by omega) h

/-- LD Vx,[I] outside Memory is fatal. -/
theorem exec_ldRegs_outside (x : Reg)
    (h : s.cfg.memSize < s.i.toNat + (x.toNat + 1)) :
    exec (.ldRegs x) s = .next (s.fatal .dataBounds (some (encode (.ldRegs x)))
      (some (max s.i.toNat s.cfg.memSize))) := by
  simp only [exec, execLdRegs]
  exact access_outside s _ _ _ (by omega) h

/-- DRW Vx,Vy,n outside Memory is fatal. -/
theorem exec_drw_outside (x y : Reg) (n : Nat) (h0 : 0 < n)
    (h : s.cfg.memSize < s.i.toNat + n) :
    exec (.drw x y n) s = .next (s.fatal .dataBounds (some (encode (.drw x y n)))
      (some (max s.i.toNat s.cfg.memSize))) := by
  simp only [exec, execDrw]
  exact access_outside s _ _ _ (by omega) h

/-- What an access can answer. -/
theorem access_cases (i : Instr) (len : Nat) (effect : State → State)
    (h : s.access i len effect = .next t) :
    t = s.fatal .dataBounds (some (encode i)) (some (max s.i.toNat s.cfg.memSize)) ∨
      (len = 0 ∨ s.i.toNat + len ≤ s.cfg.memSize) ∧ t = effect s := by
  rw [access, outside] at h
  split at h
  · exact .inl (Host.Outcome.next.inj h).symm
  · rename_i hn
    exact .inr ⟨by simp at hn; omega, (Host.Outcome.next.inj h).symm⟩

/-- What LD B,Vx can answer. -/
theorem exec_ldB_cases (x : Reg) (h : exec (.ldB x) s = .next t) :
    t = s.fatal .dataBounds (some (encode (.ldB x))) (some (max s.i.toNat s.cfg.memSize)) ∨
    s.i.toNat + 3 ≤ s.cfg.memSize ∧
      t = (s.putBytes s.i.toNat (decimalDigits (s.reg x))).next := by
  simp only [exec, execLdB] at h
  rcases access_cases s t _ _ _ h with h | ⟨hl, h⟩
  · exact .inl h
  · exact .inr ⟨by omega, h⟩

/-- What LD [I],Vx can answer. -/
theorem exec_stRegs_cases (x : Reg) (h : exec (.stRegs x) s = .next t) :
    t = s.fatal .dataBounds (some (encode (.stRegs x))) (some (max s.i.toNat s.cfg.memSize)) ∨
    s.i.toNat + (x.toNat + 1) ≤ s.cfg.memSize ∧
      t = (s.putBytes s.i.toNat (s.firstRegs (x.toNat + 1))).next := by
  simp only [exec, execStRegs] at h
  rcases access_cases s t _ _ _ h with h | ⟨hl, h⟩
  · exact .inl h
  · exact .inr ⟨by omega, h⟩

/-- What LD Vx,[I] can answer. -/
theorem exec_ldRegs_cases (x : Reg) (h : exec (.ldRegs x) s = .next t) :
    t = s.fatal .dataBounds (some (encode (.ldRegs x))) (some (max s.i.toNat s.cfg.memSize)) ∨
    s.i.toNat + (x.toNat + 1) ≤ s.cfg.memSize ∧
      t = (s.loadRegs s.i.toNat (x.toNat + 1)).next := by
  simp only [exec, execLdRegs] at h
  rcases access_cases s t _ _ _ h with h | ⟨hl, h⟩
  · exact .inl h
  · exact .inr ⟨by omega, h⟩

/-- What DRW Vx,Vy,n can answer. -/
theorem exec_drw_cases (x y : Reg) (n : Nat) (h : exec (.drw x y n) s = .next t) :
    t = s.fatal .dataBounds (some (encode (.drw x y n))) (some (max s.i.toNat s.cfg.memSize)) ∨
    (n = 0 ∨ s.i.toNat + n ≤ s.cfg.memSize) ∧
      t = ({ s with fb := (s.drawn x y n).fb }.setReg 15
        (flagByte (s.drawn x y n).collision)).next := by
  simp only [exec, execDrw] at h
  rcases access_cases s t _ _ _ h with h | ⟨hl, h⟩
  · exact .inl h
  · exact .inr ⟨by omega, h⟩

/-- What RET can answer. -/
theorem exec_ret_cases (h : exec .ret s = .next t) :
    s.sp = 0 ∧ t = s.fatal .stackUnderflow (some (encode .ret)) none ∨
    0 < s.sp ∧ t = { s with sp := s.sp - 1, pc := s.stack.getD (s.sp - 1) 0 } := by
  simp only [exec, execRet] at h
  split at h
  · exact .inl ⟨by assumption, (Host.Outcome.next.inj h).symm⟩
  · exact .inr ⟨by omega, (Host.Outcome.next.inj h).symm⟩

/-- What CALL can answer. -/
theorem exec_call_cases (nnn : Addr) (h : exec (.call nnn) s = .next t) :
    s.cfg.stackDepth ≤ s.sp ∧ t = s.fatal .stackOverflow (some (encode (.call nnn))) none ∨
    s.sp < s.cfg.stackDepth ∧
      t = { s with stack := s.stack.set s.sp (s.pc + 2), sp := s.sp + 1, pc := nnn.toWord.toPc } := by
  simp only [exec, execCall] at h
  split at h
  · exact .inl ⟨by assumption, (Host.Outcome.next.inj h).symm⟩
  · exact .inr ⟨by omega, (Host.Outcome.next.inj h).symm⟩

/-- What the key-wait check does (45_timers_keys.md R227). -/
theorem awaitKey_cases :
    lowestKey s.pressed = none ∧ s.awaitKey = s ∨
    ∃ k, lowestKey s.pressed = some k ∧
      s.awaitKey =
        { (s.setReg s.pendingReg (BitVec.ofNat 8 k)) with pc := s.pc + 2, mode := .running } := by
  unfold awaitKey
  cases h : lowestKey s.pressed with
  | none => exact .inl ⟨rfl, rfl⟩
  | some k => exact .inr ⟨k, rfl, rfl⟩

/-- A fetch inside Memory is the two bytes at PC, the first one high (40_engine_cycle.md R102). -/
theorem fetch_inside (h : s.pc.toNat + 1 < s.cfg.memSize) :
    s.fetch = some (s.byte s.pc.toNat ++ s.byte (s.pc.toNat + 1)) := by
  unfold fetch; rw [if_neg (by omega)]; rfl

/-- A fetch that would leave Memory gives no word. -/
theorem fetch_outside (h : s.cfg.memSize ≤ s.pc.toNat + 1) : s.fetch = none := if_pos h

/-- The start of a tick does not change what is fetched. -/
@[simp] theorem begin_fetch : s.begin.fetch = s.fetch := by unfold fetch; simp

/-- Everything fetch, decode and execute can answer. -/
theorem runWord_cases (h : s.runWord = .next t) :
    (s.fetch = none ∧ t = s.fatal .fetchBounds none none) ∨
    (∃ w i, s.fetch = some w ∧ decodeWord s.cfg w = .instr i ∧ exec i s = .next t) ∨
    (∃ w, s.fetch = some w ∧ decodeWord s.cfg w = .unrecognized w ∧ t = s.unrecognized w) := by
  unfold runWord at h
  split at h
  · exact .inl ⟨by assumption, (Host.Outcome.next.inj h).symm⟩
  · rename_i w hw
    split at h
    · rename_i i hi
      exact .inr (.inl ⟨w, i, hw, hi, h⟩)
    · rename_i w' hi
      have : w' = w := by
        unfold decodeWord at hi
        split at hi
        · cases hi
        · split at hi
          · cases hi
          · exact (Decoded.unrecognized.inj hi).symm
      subst this
      exact .inr (.inr ⟨w', hw, hi, (Host.Outcome.next.inj h).symm⟩)

end State

theorem finishResult_next (r : Result) (t : State) (h : finishResult r = .next t) :
    ∃ u, r = .next u ∧ t = u.finish := by
  cases r with
  | next u => exact ⟨u, rfl, (Host.Outcome.next.inj h).symm⟩
  | fault f => cases h
  | refused r => cases h

/-- Everything a tick can do (40_engine_cycle.md R100). -/
theorem tick_cases (s t : State) (h : tick s = .next t) :
    (s.mode = .stopped ∧ t = s.stoppedTick) ∨
    (s.mode ≠ .stopped ∧ s.input.quit = true ∧ t = s.quitTick) ∨
    (s.mode = .awaitingKey ∧ s.input.quit = false ∧ t = s.awaitTick) ∨
    (s.mode = .running ∧ s.input.quit = false ∧ ∃ u, s.begin.runWord = .next u ∧ t = u.finish) := by
  unfold tick at h
  cases hm : s.mode <;> simp only [hm] at h
  · cases hq : s.input.quit <;> simp only [hq, if_true, if_false, Bool.false_eq_true] at h
    · exact .inr (.inr (.inr ⟨rfl, rfl, finishResult_next _ _ h⟩))
    · exact .inr (.inl ⟨by simp, rfl, (Host.Outcome.next.inj h).symm⟩)
  · cases hq : s.input.quit <;> simp only [hq, if_true, if_false, Bool.false_eq_true] at h
    · exact .inr (.inr (.inl ⟨rfl, rfl, (Host.Outcome.next.inj h).symm⟩))
    · exact .inr (.inl ⟨by simp, rfl, (Host.Outcome.next.inj h).symm⟩)
  · exact .inl ⟨rfl, (Host.Outcome.next.inj h).symm⟩

/-- A placed word is the one the next tick fetches (notes/assumptions/5.md). -/
theorem State.fetch_placeWord (s : State) (w : Word) (h : s.pc.toNat + 1 < s.cfg.memSize) :
    (s.placeWord w).fetch = some w := by
  have hb : ∀ a, (s.placeWord w).byte a = (s.putBytes s.pc.toNat (bytesOfWord w)).byte a := fun _ => rfl
  have hc : (s.placeWord w).cfg = s.cfg := State.putBytes_cfg s s.pc.toNat (bytesOfWord w)
  have hp : (s.placeWord w).pc = s.pc := State.putBytes_pc s s.pc.toNat (bytesOfWord w)
  have e : wordOfBytes (w.extractLsb' 8 8) (w.extractLsb' 0 8) = w := by
    apply BitVec.eq_of_getLsbD_eq
    intro i hi
    rw [wordOfBytes, BitVec.getLsbD_append]
    split
    · simp [BitVec.getLsbD_extractLsb']; omega
    · rw [BitVec.getLsbD_extractLsb', show 8 + (i - 8) = i by omega]
      simp; omega
  unfold State.fetch
  rw [hc, hp, if_neg (by omega), hb, hb, State.byte_putBytes, State.byte_putBytes, if_pos (by simp [bytesOfWord]),
    if_pos (by simp [bytesOfWord])]
  simpa [bytesOfWord] using e

/-- The empty image under the default configuration resets to State.reset. -/
theorem State.resetWith_standard : State.resetWith Config.standard [] = State.reset := by
  decide

end Sys2Proof.Machine
end

