-- ==== Sys2Proof/Laws/PerInstr.lean ====
section
/-! SUPPORT. Per instruction: the word an instruction encodes to selects exactly one row of the opcode
map, or none for HALT, whose row stands apart (30_encoding.md R85, R86). -/

-- One theorem at a time: many at once exceed the memory limit of a check.
set_option Elab.async false

namespace Sys2Proof.Laws.SelectsOneRow

/-- The number of rows of the opcode map that the word of `i` selects. -/
def Statement (i : Instr) : Prop :=
  (opcodeMap.filter fun r => r.selects (encode i)).length = if i = .halt then 0 else 1

theorem halt : Statement .halt := by
  simp [Statement, encode, opcodeMap, opRowsLow, opRowsAlu, opRowsHigh, OpRow.selects]

theorem cls : Statement .cls := by
  simp [Statement, encode, opcodeMap, opRowsLow, opRowsAlu, opRowsHigh, OpRow.selects]

theorem ret : Statement .ret := by
  simp [Statement, encode, opcodeMap, opRowsLow, opRowsAlu, opRowsHigh, OpRow.selects]

theorem jp (nnn : Addr) : Statement (.jp nnn) := by
  simp [Statement, encode, nibbles_nnn, opcodeMap, opRowsLow, opRowsAlu, opRowsHigh,
    List.filter, selects_nibbles]

theorem call (nnn : Addr) : Statement (.call nnn) := by
  simp [Statement, encode, nibbles_nnn, opcodeMap, opRowsLow, opRowsAlu, opRowsHigh,
    List.filter, selects_nibbles]

theorem seImm (x : Reg) (kk : Byte) : Statement (.seImm x kk) := by
  simp [Statement, encode, nibbles_xkk, opcodeMap, opRowsLow, opRowsAlu, opRowsHigh,
    List.filter, selects_nibbles]

theorem sneImm (x : Reg) (kk : Byte) : Statement (.sneImm x kk) := by
  simp [Statement, encode, nibbles_xkk, opcodeMap, opRowsLow, opRowsAlu, opRowsHigh,
    List.filter, selects_nibbles]

theorem seReg (x y : Reg) : Statement (.seReg x y) := by
  simp [Statement, encode, nibbles_xyn, opcodeMap, opRowsLow, opRowsAlu, opRowsHigh,
    List.filter, selects_nibbles]

theorem ldImm (x : Reg) (kk : Byte) : Statement (.ldImm x kk) := by
  simp [Statement, encode, nibbles_xkk, opcodeMap, opRowsLow, opRowsAlu, opRowsHigh,
    List.filter, selects_nibbles]

theorem addImm (x : Reg) (kk : Byte) : Statement (.addImm x kk) := by
  simp [Statement, encode, nibbles_xkk, opcodeMap, opRowsLow, opRowsAlu, opRowsHigh,
    List.filter, selects_nibbles]

theorem ldReg (x y : Reg) : Statement (.ldReg x y) := by
  simp [Statement, encode, nibbles_xyn, opcodeMap, opRowsLow, opRowsAlu, opRowsHigh,
    List.filter, selects_nibbles]

theorem orReg (x y : Reg) : Statement (.orReg x y) := by
  simp [Statement, encode, nibbles_xyn, opcodeMap, opRowsLow, opRowsAlu, opRowsHigh,
    List.filter, selects_nibbles]

theorem andReg (x y : Reg) : Statement (.andReg x y) := by
  simp [Statement, encode, nibbles_xyn, opcodeMap, opRowsLow, opRowsAlu, opRowsHigh,
    List.filter, selects_nibbles]

theorem xorReg (x y : Reg) : Statement (.xorReg x y) := by
  simp [Statement, encode, nibbles_xyn, opcodeMap, opRowsLow, opRowsAlu, opRowsHigh,
    List.filter, selects_nibbles]

theorem addReg (x y : Reg) : Statement (.addReg x y) := by
  simp [Statement, encode, nibbles_xyn, opcodeMap, opRowsLow, opRowsAlu, opRowsHigh,
    List.filter, selects_nibbles]

theorem subReg (x y : Reg) : Statement (.subReg x y) := by
  simp [Statement, encode, nibbles_xyn, opcodeMap, opRowsLow, opRowsAlu, opRowsHigh,
    List.filter, selects_nibbles]

theorem shr (x : Reg) : Statement (.shr x) := by
  simp [Statement, encode, nibbles_xyn, opcodeMap, opRowsLow, opRowsAlu, opRowsHigh,
    List.filter, selects_nibbles]

theorem subnReg (x y : Reg) : Statement (.subnReg x y) := by
  simp [Statement, encode, nibbles_xyn, opcodeMap, opRowsLow, opRowsAlu, opRowsHigh,
    List.filter, selects_nibbles]

theorem shl (x : Reg) : Statement (.shl x) := by
  simp [Statement, encode, nibbles_xyn, opcodeMap, opRowsLow, opRowsAlu, opRowsHigh,
    List.filter, selects_nibbles]

theorem sneReg (x y : Reg) : Statement (.sneReg x y) := by
  simp [Statement, encode, nibbles_xyn, opcodeMap, opRowsLow, opRowsAlu, opRowsHigh,
    List.filter, selects_nibbles]

theorem ldI (nnn : Addr) : Statement (.ldI nnn) := by
  simp [Statement, encode, nibbles_nnn, opcodeMap, opRowsLow, opRowsAlu, opRowsHigh,
    List.filter, selects_nibbles]

theorem jpV0 (nnn : Addr) : Statement (.jpV0 nnn) := by
  simp [Statement, encode, nibbles_nnn, opcodeMap, opRowsLow, opRowsAlu, opRowsHigh,
    List.filter, selects_nibbles]

theorem rnd (x : Reg) (kk : Byte) : Statement (.rnd x kk) := by
  simp [Statement, encode, nibbles_xkk, opcodeMap, opRowsLow, opRowsAlu, opRowsHigh,
    List.filter, selects_nibbles]

theorem drw (x y : Reg) (n : Nat) : Statement (.drw x y n) := by
  simp [Statement, encode, nibbles_xyn, opcodeMap, opRowsLow, opRowsAlu, opRowsHigh,
    List.filter, selects_nibbles]

theorem skp (x : Reg) : Statement (.skp x) := by
  simp [Statement, encode, nibbles_xkk, opcodeMap, opRowsLow, opRowsAlu, opRowsHigh,
    List.filter, selects_nibbles]

theorem sknp (x : Reg) : Statement (.sknp x) := by
  simp [Statement, encode, nibbles_xkk, opcodeMap, opRowsLow, opRowsAlu, opRowsHigh,
    List.filter, selects_nibbles]

theorem ldVxDt (x : Reg) : Statement (.ldVxDt x) := by
  simp [Statement, encode, nibbles_xkk, opcodeMap, opRowsLow, opRowsAlu, opRowsHigh,
    List.filter, selects_nibbles]

theorem ldVxK (x : Reg) : Statement (.ldVxK x) := by
  simp [Statement, encode, nibbles_xkk, opcodeMap, opRowsLow, opRowsAlu, opRowsHigh,
    List.filter, selects_nibbles]

theorem ldDtVx (x : Reg) : Statement (.ldDtVx x) := by
  simp [Statement, encode, nibbles_xkk, opcodeMap, opRowsLow, opRowsAlu, opRowsHigh,
    List.filter, selects_nibbles]

theorem ldStVx (x : Reg) : Statement (.ldStVx x) := by
  simp [Statement, encode, nibbles_xkk, opcodeMap, opRowsLow, opRowsAlu, opRowsHigh,
    List.filter, selects_nibbles]

theorem addI (x : Reg) : Statement (.addI x) := by
  simp [Statement, encode, nibbles_xkk, opcodeMap, opRowsLow, opRowsAlu, opRowsHigh,
    List.filter, selects_nibbles]

theorem ldF (x : Reg) : Statement (.ldF x) := by
  simp [Statement, encode, nibbles_xkk, opcodeMap, opRowsLow, opRowsAlu, opRowsHigh,
    List.filter, selects_nibbles]

theorem ldB (x : Reg) : Statement (.ldB x) := by
  simp [Statement, encode, nibbles_xkk, opcodeMap, opRowsLow, opRowsAlu, opRowsHigh,
    List.filter, selects_nibbles]

theorem stRegs (x : Reg) : Statement (.stRegs x) := by
  simp [Statement, encode, nibbles_xkk, opcodeMap, opRowsLow, opRowsAlu, opRowsHigh,
    List.filter, selects_nibbles]

theorem ldRegs (x : Reg) : Statement (.ldRegs x) := by
  simp [Statement, encode, nibbles_xkk, opcodeMap, opRowsLow, opRowsAlu, opRowsHigh,
    List.filter, selects_nibbles]

end Sys2Proof.Laws.SelectsOneRow
end

