-- ==== Sys2Proof/Tests/Slice0.lean ====
section
/-! SUPPORT. Tests: ill-formed terms, words written out from the encodings of 30_encoding.md R85, the
vectors of 95_test_vectors.md, each named by its id there, and a witness for the hypotheses of every
statement that has some. -/

-- One theorem at a time: many at once exceed the memory limit of a check.
set_option Elab.async false

namespace Sys2Proof.Tests

open Sys2Proof.Machine

/-- The next state of an answer, if it is one. -/
def next? : Result → Option State
  | .next s => some s
  | .fault _ => none
  | .refused _ => none

/-- Reset state with one tick of inputs scheduled: these keys, no quit, no strobe, this random byte. -/
def start (keys : Word) (rnd : Byte) : State :=
  { State.reset with inputs := [{ keys := keys, quit := false, strobe := false, rnd := rnd }] }

/-- The same with the timers' strobe, or a quit, in the tick. -/
def withInput (s : State) (keys : Word) (quit strobe : Bool) : State :=
  { s with inputs := [{ keys := keys, quit := quit, strobe := strobe, rnd := 0 }] }

/-- Set registers. -/
def regs (s : State) (l : List (Reg × Byte)) : State := l.foldl (fun s p => s.setReg p.1 p.2) s

/-- One tick with the word `w` at PC. -/
def tickAt (w : Nat) (s : State) : Option State := next? (step (s.withFetchWord 16 w))

/-- A configuration with a small Memory of `n` bytes. -/
def small (n : Nat) : Config := { Config.standard with memSize := n }

/-- The default configuration but STRICT and EDGE, with no HALT word. -/
def other : Config :=
  { Config.standard with unknownOpcode := .strict, zeroWordHalt := false, keyTrigger := .edge }

/-! ### Ill-formed terms -/

theorem test_halt_needs_zero_word_halt :
    WellFormed other .halt = false ∧ WellFormed Config.standard .halt = true := by decide

theorem test_draw_rows_are_four_bits :
    WellFormed Config.standard (.drw 0 0 16) = false ∧ WellFormed Config.standard (.drw 0 0 15) =
      true := by decide

/-! ### Decoding: the patterns of R85, bit by bit -/

theorem test_decode_system :
    decodeWord Config.standard 0b0000000000000000 = .instr (.halt) ∧
    decodeWord Config.standard 0b0000000011100000 = .instr (.cls) ∧
    decodeWord Config.standard 0b0000000011101110 = .instr (.ret) := by decide

theorem test_decode_jumps :
    decodeWord Config.standard 0b0001001000110100 = .instr (.jp 0x234) ∧
    decodeWord Config.standard 0b0010101010111100 = .instr (.call 0xABC) ∧
    decodeWord Config.standard 0b1011000100100011 = .instr (.jpV0 0x123) := by decide

theorem test_decode_skips :
    decodeWord Config.standard 0b0011010110101011 = .instr (.seImm 5 0xAB) ∧
    decodeWord Config.standard 0b0100010110101011 = .instr (.sneImm 5 0xAB) ∧
    decodeWord Config.standard 0b0101010110100000 = .instr (.seReg 5 0xA) ∧
    decodeWord Config.standard 0b1001010110100000 = .instr (.sneReg 5 0xA) := by decide

theorem test_decode_immediates :
    decodeWord Config.standard 0b0110101000101111 = .instr (.ldImm 0xA 0x2F) ∧
    decodeWord Config.standard 0b0111000100000010 = .instr (.addImm 1 2) ∧
    decodeWord Config.standard 0b1100001100001111 = .instr (.rnd 3 0xF) := by decide

theorem test_decode_alu_logic :
    decodeWord Config.standard 0b1000000100100000 = .instr (.ldReg 1 2) ∧
    decodeWord Config.standard 0b1000000100100001 = .instr (.orReg 1 2) ∧
    decodeWord Config.standard 0b1000000100100010 = .instr (.andReg 1 2) ∧
    decodeWord Config.standard 0b1000000100100011 = .instr (.xorReg 1 2) := by decide

theorem test_decode_alu_flags :
    decodeWord Config.standard 0b1000000100100100 = .instr (.addReg 1 2) ∧
    decodeWord Config.standard 0b1000000100100101 = .instr (.subReg 1 2) ∧
    decodeWord Config.standard 0b1000101010110110 = .instr (.shr 0xA) ∧
    decodeWord Config.standard 0b1000000100100111 = .instr (.subnReg 1 2) ∧
    decodeWord Config.standard 0b1000101010111110 = .instr (.shl 0xA) := by decide

theorem test_decode_index_display :
    decodeWord Config.standard 0b1010001011110000 = .instr (.ldI 0x2F0) ∧
    decodeWord Config.standard 0b1101000100101111 = .instr (.drw 1 2 15) := by decide

theorem test_decode_keys_timers :
    decodeWord Config.standard 0b1110010110011110 = .instr (.skp 5) ∧
    decodeWord Config.standard 0b1110010110100001 = .instr (.sknp 5) ∧
    decodeWord Config.standard 0b1111000100000111 = .instr (.ldVxDt 1) ∧
    decodeWord Config.standard 0b1111001100001010 = .instr (.ldVxK 3) ∧
    decodeWord Config.standard 0b1111001000010101 = .instr (.ldDtVx 2) ∧
    decodeWord Config.standard 0b1111001000011000 = .instr (.ldStVx 2) := by decide

theorem test_decode_memory :
    decodeWord Config.standard 0b1111000100011110 = .instr (.addI 1) ∧
    decodeWord Config.standard 0b1111001000101001 = .instr (.ldF 2) ∧
    decodeWord Config.standard 0b1111000000110011 = .instr (.ldB 0) ∧
    decodeWord Config.standard 0b1111000101010101 = .instr (.stRegs 1) ∧
    decodeWord Config.standard 0b1111000101100101 = .instr (.ldRegs 1) := by decide

/-- Vectors E6 to E10. -/
theorem test_decode_unrecognized :
    [0x00E1#16, 0x0123, 0x5121, 0x912F, 0x8008, 0x800F, 0x800C, 0xE19F, 0xE000, 0xF000, 0xF130].all
      (fun w => decide (decodeWord Config.standard w = .unrecognized w)) = true := by decide

/-- Vector E4. -/
theorem test_decode_zero_word_off :
    decodeWord other 0x0000 = .unrecognized 0 := by decide

/-- Vector E1. -/
theorem test_decode_table_word :
    decodeTableWord 16 0xD12F = some (.drw 1 2 15) := by decide

theorem test_decode_stream :
    decode Config.standard [0xF1, 0x65, 0x12] = .word (.instr (.ldRegs 1)) [0x12] ∧
    decode Config.standard [0xF1] = .truncated := by decide

/-! ### Register loads and ALU (95_test_vectors.md 2.2) -/

/-- Vector A1. -/
theorem test_ld_imm :
    (tickAt 0x63AB (regs (start 0 0) [])).map
      (fun t => (t.reg 3, t.pc)) = some (0xAB, 0x202) := by decide

/-- Vector A2. -/
theorem test_add_imm_wraps :
    (tickAt 0x7102 (regs (start 0 0) [(1, 0xFF), (15, 0x55)])).map
      (fun t => (t.reg 1, t.reg 15)) = some (0x01, 0x55) := by decide

/-- Vector A3. -/
theorem test_ld_reg :
    (tickAt 0x8120 (regs (start 0 0) [(1, 0x12), (2, 0x34)])).map
      (fun t => (t.reg 1, t.reg 2)) = some (0x34, 0x34) := by decide

/-- Vector A4. -/
theorem test_or :
    (tickAt 0x8121 (regs (start 0 0) [(1, 0xF0), (2, 0x0F), (15, 0x77)])).map
      (fun t => (t.reg 1, t.reg 15)) = some (0xFF, 0x77) := by decide

/-- Vector A5. -/
theorem test_and :
    (tickAt 0x8122 (regs (start 0 0) [(1, 0xF0), (2, 0x3C)])).map
      (fun t => (t.reg 1, t.reg 2)) = some (0x30, 0x3C) := by decide

/-- Vector A6. -/
theorem test_xor :
    (tickAt 0x8123 (regs (start 0 0) [(1, 0xFF), (2, 0x0F)])).map
      (fun t => (t.reg 1, t.reg 2)) = some (0xF0, 0x0F) := by decide

/-- Vector S1. -/
theorem test_add_carry :
    (tickAt 0x8014 (regs (start 0 0) [(0, 0xFF), (1, 0x01)])).map
      (fun t => (t.reg 0, t.reg 15, t.pc)) = some (0x00, 1, 0x202) := by decide

/-- Vector A14. -/
theorem test_add_flag_wins :
    (tickAt 0x8F14 (regs (start 0 0) [(15, 0x10), (1, 0xF5)])).map
      (fun t => (t.reg 15, t.reg 1)) = some (1, 0xF5) := by decide

/-- Vector S3. -/
theorem test_sub_borrow :
    (tickAt 0x8015 (regs (start 0 0) [(0, 0x05), (1, 0x0A)])).map
      (fun t => (t.reg 0, t.reg 15)) = some (0xFB, 0) := by decide

/-- Vector A15. -/
theorem test_sub_flag_wins :
    (tickAt 0x8F15 (regs (start 0 0) [(15, 0x10), (1, 0x05)])).map
      (fun t => (t.reg 15, t.reg 1)) = some (1, 0x05) := by decide

/-- Vector A7. -/
theorem test_subn_borrow :
    (tickAt 0x8017 (regs (start 0 0) [(0, 0x0A), (1, 0x05)])).map
      (fun t => (t.reg 0, t.reg 15)) = some (0xFB, 0) := by decide

/-- Vector A8. -/
theorem test_subn_no_borrow :
    (tickAt 0x8017 (regs (start 0 0) [(0, 0x05), (1, 0x0A)])).map
      (fun t => (t.reg 0, t.reg 15)) = some (0x05, 1) := by decide

/-- Vector A13, with bit 0 set. -/
theorem test_shr_ignores_y :
    (tickAt 0x8056 (regs (start 0 0) [(0, 0x81), (5, 0x99)])).map
      (fun t => (t.reg 0, t.reg 15, t.reg 5)) = some (0x40, 1, 0x99) := by decide

/-- Vector A16. -/
theorem test_shr_flag_wins :
    (tickAt 0x8F06 (regs (start 0 0) [(15, 0x03)])).map
      (fun t => (t.reg 15, t.pc)) = some (1, 0x202) := by decide

/-- Vector A10. -/
theorem test_shl_out :
    (tickAt 0x800E (regs (start 0 0) [(0, 0x81)])).map
      (fun t => (t.reg 0, t.reg 15)) = some (0x02, 1) := by decide

/-- Vector A11. -/
theorem test_shl_no_out :
    (tickAt 0x800E (regs (start 0 0) [(0, 0x40)])).map
      (fun t => (t.reg 0, t.reg 15)) = some (0x80, 0) := by decide

/-- Vector A19. -/
theorem test_rnd :
    (tickAt 0xC30F (regs (start 0 0xA7) [(3, 0xFF)])).map
      (fun t => (t.reg 3, t.pc)) = some (0x07, 0x202) := by decide

/-! ### Control flow (95_test_vectors.md 2.3) -/

/-- Vector B2. -/
theorem test_jp_odd :
    (tickAt 0x1201 (regs (start 0 0) [])).map
      (fun t => (t.pc, t.sp)) = some (0x201, 0) := by decide

/-- Vector B4. -/
theorem test_jp_v0 :
    (tickAt 0xBFFF (regs (start 0 0) [(0, 0xFF)])).map
      (fun t => (t.pc, t.mode)) = some (0x10FE, .running) := by decide

/-- Vector S10. -/
theorem test_se_imm :
    (tickAt 0x3012 (regs (start 0 0) [(0, 0x12)])).map
      (fun t => (t.pc, t.reg 0)) = some (0x204, 0x12) := by decide

/-- Vector S10. -/
theorem test_se_imm_not :
    (tickAt 0x3013 (regs (start 0 0) [(0, 0x12)])).map
      (fun t => (t.pc, t.reg 0)) = some (0x202, 0x12) := by decide

/-- Vector S10. -/
theorem test_sne_imm :
    (tickAt 0x4013 (regs (start 0 0) [(0, 0x12)])).map
      (fun t => (t.pc, t.reg 0)) = some (0x204, 0x12) := by decide

/-- Vector S10. -/
theorem test_sne_imm_not :
    (tickAt 0x4012 (regs (start 0 0) [(0, 0x12)])).map
      (fun t => (t.pc, t.reg 0)) = some (0x202, 0x12) := by decide

/-- Vector B8. -/
theorem test_se_reg :
    (tickAt 0x5120 (regs (start 0 0) [(1, 0x40), (2, 0x40)])).map
      (fun t => (t.pc, t.reg 1)) = some (0x204, 0x40) := by decide

/-- Vector B9. -/
theorem test_sne_reg :
    (tickAt 0x9120 (regs (start 0 0) [(1, 0x40), (2, 0x41)])).map
      (fun t => (t.pc, t.reg 1)) = some (0x204, 0x40) := by decide

/-- Vector S6. -/
theorem test_call :
    (tickAt 0x2300 (start 0 0)).map (fun t => (t.pc, t.sp, t.stack[0]?)) = some (0x300, 1, some
      0x202) := by decide

/-- Vector B5. -/
theorem test_call_overflow :
    (tickAt 0x2300 { start 0 0 with sp := 16 }).map (fun t => (t.stopReason, t.diag, t.sp, t.pc)) =
      some (some (.fatal .stackOverflow), some ⟨.stackOverflow, some 0x2300, some 0x200, none,
        none⟩, 16, 0x200) := by decide

/-- Vector S7. -/
theorem test_ret :
    (tickAt 0x00EE { start 0 0 with sp := 1, stack := [0x202], pc := 0x300 }).map (fun t => (t.pc,
      t.sp)) = some (0x202, 0) := by decide

/-- Vector T15. -/
theorem test_ret_underflow_after_decrement :
    (tickAt 0x00EE (withInput { State.reset with dt := 5 } 0 false true)).map (fun t => (t.dt,
      t.stopReason, t.exitOk)) =
      some (4, some (.fatal .stackUnderflow), some false) := by decide

/-- Vector S15. -/
theorem test_halt :
    (tickAt 0x0000 { start 0 0 with pc := 0x20C }).map (fun t => (t.stopReason, t.exitOk, t.pc,
      t.redraw)) =
      some (some .halt, some true, 0x20C, false) := by decide

/-! ### Index and memory (95_test_vectors.md 2.4) -/

/-- Vector M1. -/
theorem test_ld_i :
    (tickAt 0xA2F0 { regs (start 0 0) [] with i := 0 }).map
      (fun t => (t.i, t.pc)) = some (0x02F0, 0x202) := by decide

/-- Vector M2. -/
theorem test_add_i_wraps :
    (tickAt 0xF11E { regs (start 0 0) [(1, 0x02), (15, 0x55)] with i := 0xFFFF }).map
      (fun t => (t.i, t.reg 15)) = some (0x0001, 0x55) := by decide

/-- Vector M5. -/
theorem test_ld_f :
    (tickAt 0xF229 { regs (start 0 0) [(2, 0x10)] with i := 0 }).map
      (fun t => (t.i, t.pc)) = some (0x0050, 0x202) := by decide

/-- Vector S9. -/
theorem test_ld_b :
    (tickAt 0xF033 { regs (start 0 0) [(0, 0xEA)] with i := 0x300 }).map
      (fun t => (t.byte 0x300, t.byte 0x301, t.byte 0x302, t.i)) = some (2, 3, 4, 0x300) := by decide

/-- Vector S13. -/
theorem test_ld_b_out :
    (tickAt 0xF033 { regs (start 0 0) [(0, 0x07)] with i := 0xFFF }).map
      (fun t => (t.stopReason, t.diag, t.byte 0xFFF)) = some (some (.fatal .dataBounds), some
        ⟨.dataBounds, some 0xF033, some 0x200, some 0x1000, none⟩, 0) := by decide

/-- Vector M11. -/
theorem test_st_last_byte :
    (tickAt 0xF055 { regs (start 0 0) [(0, 0x11)] with i := 0xFFF }).map
      (fun t => (t.byte 0xFFF, t.i)) = some (0x11, 0xFFF) := by decide

/-- Vector M10. -/
theorem test_st_out :
    (tickAt 0xF155 { regs (start 0 0) [(0, 0x11), (1, 0x22)] with i := 0xFFF }).map
      (fun t => (t.stopReason, t.byte 0xFFF)) = some (some (.fatal .dataBounds), 0) := by decide

/-- Vector of R185 on the glyph bytes 2 and 3 of R66. -/
theorem test_ld_regs_inclusive :
    (tickAt 0xF165 { regs (start 0 0) [(2, 0x33)] with i := 0x002 }).map
      (fun t => (t.reg 0, t.reg 1, t.reg 2, t.i)) = some (0x90, 0x90, 0x33, 2) := by decide

/-- Vector M14. -/
theorem test_ld_regs_out :
    (tickAt 0xF065 { regs (start 0 0) [] with i := 0x1000 }).map
      (fun t => (t.stopReason, t.exitOk)) = some (some (.fatal .dataBounds), some false) := by decide

/-- The store of program P8. -/
theorem test_self_modified_fetch :
    (tickAt 0xF155 { regs (start 0 0) [(0, 0x12), (1, 0x0C)] with i := 0x202 }).bind (fun t =>
      t.fetch) = some 0x120C := by decide

/-- R73 with LD B of 234. -/
theorem test_self_modified_fetch_by_digits :
    (tickAt 0xF033 { regs (start 0 0) [(0, 0xEA)] with i := 0x202 }).bind (fun t => t.fetch) = some
      0x0203 := by decide

/-! ### Display (95_test_vectors.md 2.5) -/

/-- Vector D1. -/
theorem test_cls :
    (tickAt 0x00E0 { start 0 0 with fb := [(3, 0), (63, 31)] }).map (fun t => (t.fb, t.redraw)) =
      some ([], true) := by decide

/-- Vector D3, with the column of D2. -/
theorem test_drw_wraps_rows :
    (tickAt 0xD012 { (regs (start 0 0) [(0, 68), (1, 31)]).putBytes 0x300 [0x80, 0x80] with
        i := 0x300
        fb := [] }).map
      (fun t => (t.fb, t.reg 15)) = some ([(4, 0), (4, 31)], 0) := by decide

/-- Vector D7. -/
theorem test_drw_collides :
    (tickAt 0xD011 { (regs (start 0 0) [(0, 0), (1, 0)]).putBytes 0x300 [0x40] with
        i := 0x300
        fb := [(1, 0)] }).map
      (fun t => (t.fb, t.reg 15)) = some ([], 1) := by decide

/-- Vectors D4 and D5. -/
theorem test_drw_no_rows :
    (tickAt 0xD010 { regs (start 0 0) [(15, 0x55)] with i := 0x1000 }).map (fun t => (t.reg 15,
      t.mode)) = some (0, .running) := by decide

/-- Vector D6. -/
theorem test_drw_out :
    (tickAt 0xD012 { start 0 0 with i := 0xFFF }).map (fun t => (t.stopReason, t.fb)) = some (some
      (.fatal .dataBounds), []) := by decide

/-! ### Timers and keys (95_test_vectors.md 2.6) -/

/-- Vector T3. -/
theorem test_ld_vx_dt :
    (tickAt 0xF107 (withInput { State.reset with dt := 3 } 0 false true)).map (fun t => (t.reg 1,
      t.dt)) = some (2, 2) := by decide

/-- Vector T2. -/
theorem test_timer_stays_at_zero :
    (tickAt 0x6000 (withInput { State.reset with dt := 0, st := 1 } 0 false true)).map (fun t =>
      (t.dt, t.st)) = some (0, 0) := by decide

/-- Vector T5. -/
theorem test_ld_st_tone :
    (tickAt 0xF018 (regs (start 0 0) [(0, 1)])).map (fun t => (t.st, t.tone)) = some (1, true) := by decide

/-- Vector T6. -/
theorem test_ld_dt :
    (tickAt 0xF015 (regs (start 0 0) [(0, 0x3C)])).map (fun t => (t.dt, t.pc)) = some (0x3C, 0x202) := by decide

/-- Vectors S11 and T7. -/
theorem test_skp :
    (tickAt 0xE09E (regs (start 0x0020 0) [(0, 5)])).map (fun t => t.pc) = some 0x204 ∧
    (tickAt 0xE09E (regs (start 0xFFFF 0) [(0, 0x15)])).map (fun t => t.pc) = some 0x202 := by decide

/-- Vectors S11 and T7. -/
theorem test_sknp :
    (tickAt 0xE0A1 (regs (start 0x0020 0) [(0, 5)])).map (fun t => t.pc) = some 0x202 ∧
    (tickAt 0xE0A1 (regs (start 0xFFFF 0) [(0, 0x15)])).map (fun t => t.pc) = some 0x204 := by decide

/-- Vector T10, first tick. -/
theorem test_ld_vx_k_waits :
    (tickAt 0xF30A (start 0xFFFF 0)).map (fun t => (t.mode, t.pendingReg, t.pc, t.redraw)) = some
      (.awaitingKey, 3, 0x200, true) := by decide

/-- Vector T9. -/
theorem test_key_wait_lowest :
    (next? (step (withInput { State.reset with mode := .awaitingKey, pendingReg := 4, pc := 0x240 }
      0x0208 false false))).map
      (fun t => (t.reg 4, t.pc, t.mode, t.redraw)) = some (0x03, 0x242, .running, false) := by decide

/-- Vector T11, tick 2. -/
theorem test_key_wait_edge_held :
    (next? (step (withInput { State.reset with cfg := other, mode := .awaitingKey, keys := 0x80 }
      0x80 false false))).map (fun t => (t.mode, t.pc)) =
      some (.awaitingKey, 0x200) := by decide

/-- Vector T12. -/
theorem test_key_wait_timers :
    (next? (step (withInput { State.reset with mode := .awaitingKey, dt := 5, st := 2 } 0 false
      true))).map (fun t => (t.dt, t.st, t.tone, t.redraw)) =
      some (4, 1, true, false) := by decide

/-- Vector T14. -/
theorem test_quit_before_timers :
    (next? (step (withInput { State.reset with dt := 5 } 0 true true))).map (fun t => (t.stopReason,
      t.exitOk, t.dt)) = some (some .quit, some true, 5) := by decide

/-! ### Engine and policy (95_test_vectors.md 2.7) -/

/-- Vector G1. -/
theorem test_lenient :
    (tickAt 0x5121 { start 0 0 with pc := 0x300 }).map (fun t => (t.pc, t.diag, t.mode, t.redraw)) =
      some (0x302, some ⟨.unrecognizedOpcode, some 0x5121, some 0x300, none, none⟩, .running, true) := by decide

/-- Vector G2. -/
theorem test_strict :
    (tickAt 0x5121 { start 0 0 with cfg := other, pc := 0x300 }).map (fun t => (t.pc, t.stopReason,
      t.exitOk)) =
      some (0x300, some (.fatal .unrecognizedOpcode), some false) := by decide

/-- Vector B12. -/
theorem test_fetch_out :
    (next? (step { start 0 0 with pc := 0xFFF })).map (fun t => (t.diag, t.pc)) =
      some (some ⟨.fetchBounds, none, some 0xFFF, none, none⟩, 0xFFF) := by decide

/-- Vector G6. -/
theorem test_stopped_changes_nothing :
    (next? (step { State.reset with mode := .stopped, stopReason := some .halt })).map (fun t =>
      (t.stopped, t.pc, t.stopReason)) =
      some (true, 0x200, some .halt) := by decide

/-- Vector G9. -/
theorem test_empty_image_halts :
    (next? (step (State.resetWith Config.standard []))).map (fun t => (t.stopReason, t.pc)) = some
      (some .halt, 0x200) := by decide

/-- R268: a loader failure is LOAD_ERROR. -/
theorem test_load_failure :
    (fun s : State => (s.stopReason, s.exitOk, s.byte 0x200)) (State.resetLoad Config.standard
      .failed) =
      (some (.fatal .loadError), some false, 0) := by decide

/-- Vector G10. -/
theorem test_image_of_odd_length :
    ((List.range 4).map fun k => (State.resetWith Config.standard [0x12, 0x34, 0x56]).byte (0x200 +
      k)) = [0x12, 0x34, 0x56, 0] := by decide

/-- The spelling of 30_encoding.md R91. -/
theorem test_assembler :
    asm (.drw 1 2 15) = "DRW V1,V2,15" ∧ asm (.ldImm 0xA 0x2F) = "LD VA,0x2F" ∧ asm (.stRegs 1) = "LD [I],V1" := by decide

theorem test_reset_memory_canonical :
    Memory.wf State.reset.cfg State.reset.mem := by decide

/-- Writing what an unlisted address reads as unlists it. -/
theorem test_write_back_unlists :
    (State.reset.putByte 0x300 5).mem = [(0x300, 5)] ∧ ((State.reset.putByte 0x300 5).putByte 0x300
      0).mem = [] ∧
    (State.reset.putByte 0 0xF0).mem = [] := by decide

/-! ### Hypotheses of the statements are met -/

/-- A state that meets the invariant and is not the reset state: a call deep, a pixel on, a byte stored,
waiting for a key with the tone on. -/
def busy : State :=
  { State.reset with
    sp := 1
    stack := [0x202, 0, 0, 0, 0, 0, 0, 0, 0, 0, 0, 0, 0, 0, 0, 0]
    st := 2
    tone := true
    mode := .awaitingKey
    mem := [(0x300, 7)]
    fb := [(3, 1), (2, 2)] }

/-- The reset state with two bytes at 0x200 and one tick of inputs. -/
def code (hi lo : Byte) : State := (start 0 0).putBytes 0x200 [hi, lo]

/-- DecodeInvertsEncode. -/
theorem test_hyp_well_formed :
    WellFormed Config.standard (.drw 1 2 15) = true ∧ WellFormed Config.standard .halt = true ∧
      WellFormed other (.shr 3) = true := by decide

/-- DecodedInstructionEncodesBack, and with an ignored field that is not 0. -/
theorem test_hyp_decodes :
    decodeWord Config.standard 0xD12F = .instr (.drw 1 2 15) ∧ decodeWord other 0x8AB6 = .instr
      (.shr 0xA) := by decide

/-- ResetLoadsImageAndClearsState, InvariantHoldsAtReset: an image that just fits. -/
theorem test_hyp_image_fits :
    (small 0x202).wf ∧ [1#8, 2].length ≤ (small 0x202).memSize - 0x200 := by decide

/-- OversizedImageStopsWithLoadError. -/
theorem test_hyp_image_too_long :
    (small 0x202).memSize - 0x200 < [1#8, 2, 3].length := by decide

/-- LoaderFailureIsTheSameLoadError. -/
theorem test_hyp_load_failure :
    (small 0x202).wf ∧ (small 0x202).memSize - 0x200 < [1#8, 2, 3].length := by decide

/-- EveryTickKeepsTheInvariant, TickEndsWithToneAndRedraw. -/
theorem test_hyp_invariant :
    busy.Inv ∧ ∃ t, step busy = .next t := ⟨by decide, _, rfl⟩

/-- EveryTickKeepsTheInvariant, at State.reset. -/
theorem test_hyp_invariant_at_reset :
    State.reset.Inv ∧ ∃ t, step State.reset = .next t := ⟨by decide, _, rfl⟩

/-- ProgramCounterFitsSixteenBits, ConfigurationIsFixedForARun. -/
theorem test_hyp_run :
    busy.Inv ∧ busy.cfg.memSize ≤ 0xFFFD ∧ ∃ t, core.run 2 busy = .next t := ⟨by decide, by decide, _, rfl⟩

/-- StoppedIsFinal. -/
theorem test_hyp_stopped :
    { State.reset with mode := .stopped, stopReason := some .quit : State }.mode = .stopped := rfl

/-- StaleStackEntriesAreUnobservable: the entry at SP differs. -/
theorem test_hyp_stale_stack :
    SameButStaleStack State.reset { State.reset with stack := 5 :: List.replicate 15 0 } ∧ ∃ t, step
      State.reset = .next t := ⟨⟨rfl, rfl, by decide⟩, _, rfl⟩

/-- StaleStackEntriesAreUnobservable, with an entry in use. -/
theorem test_hyp_stale_stack_call :
    SameButStaleStack busy { busy with stack := 0x202 :: List.replicate 15 9 } ∧ ∃ t, step busy =
      .next t := ⟨⟨rfl, rfl, by decide⟩, _, rfl⟩

/-- CanonicalMemoryIsUnique. -/
theorem test_hyp_canonical :
    Memory.wf Config.standard [(0x300, 7)] ∧ ∀ a, Memory.read Config.standard [(0x300, 7)] a =
      Memory.read Config.standard [(0x300, 7)] a := ⟨by decide, fun _ => rfl⟩

/-- StepRunsTheDecodedInstruction. -/
theorem test_hyp_fetch_decodes :
    (code 0x63 0xAB).mode = .running ∧ (code 0x63 0xAB).input.quit = false ∧ (code 0x63
      0xAB).pc.toNat + 1 < (code 0x63 0xAB).cfg.memSize ∧
    decodeWord (code 0x63 0xAB).cfg ((code 0x63 0xAB).byte (code 0x63 0xAB).pc.toNat ++ (code 0x63
      0xAB).byte ((code 0x63 0xAB).pc.toNat + 1)) = .instr (.ldImm 3 0xAB) := by decide

/-- StepRunsTheDecodedInstruction, at the last word of Memory. -/
theorem test_hyp_fetch_last_word :
    0xFFE + 1 < Config.standard.memSize ∧ { State.reset with pc := 0xFFE : State }.pc.toNat = 0xFFE
      ∧
    decodeWord Config.standard (State.reset.byte 0xFFE ++ State.reset.byte 0xFFF) = .instr .halt := by decide

/-- DiagnosticsNameTheirCause, a fatal condition. -/
theorem test_hyp_diag_fatal :
    (next? (step { start 0 0 with pc := 0xFFF })).any (fun t => t.diag.isSome) = true := by decide

/-- DiagnosticsNameTheirCause, LENIENT. -/
theorem test_hyp_diag_lenient :
    (next? (step (code 0x51 0x21))).any (fun t => t.diag.isSome) = true := by decide

/-- DiagnosticsNameTheirCause, STRICT. -/
theorem test_hyp_diag_strict :
    (next? (step { code 0x51 0x21 with cfg := other })).any (fun t => t.diag.any fun d => d.word ==
      some 0x5121) = true := by decide

/-- DiagnosticsNameTheirCause, DATA_BOUNDS at the first range that does not fit. -/
theorem test_hyp_diag_data :
    (next? (step { code 0xF0 0x33 with i := 0xFFE })).any (fun t => t.diag.any fun d => d.addr ==
      some 0x1000) = true := by decide

/-- FetchOutsideMemoryIsFatal, at the last byte of Memory. -/
theorem test_hyp_fetch_outside :
    { State.reset with pc := 0xFFF : State }.mode = .running ∧ (start 0 0).input.quit = false ∧
    { start 0 0 with pc := 0xFFF }.cfg.memSize ≤ { start 0 0 with pc := 0xFFF }.pc.toNat + 1 := by decide

/-- UnrecognizedWordFollowsPolicy. -/
theorem test_hyp_unrecognized_lenient :
    let s := { code 0x51 0x21 with cfg := Config.standard }
    s.mode = .running ∧ s.input.quit = false ∧ s.pc.toNat + 1 < s.cfg.memSize ∧ 0x5121#16 = s.byte
      s.pc.toNat ++ s.byte (s.pc.toNat + 1) ∧
      decodeWord s.cfg 0x5121 = .unrecognized 0x5121 ∧ s.cfg.unknownOpcode = .lenient := by decide

/-- UnrecognizedWordFollowsPolicy. -/
theorem test_hyp_unrecognized_strict :
    let s := { code 0x51 0x21 with cfg := other }
    s.mode = .running ∧ s.input.quit = false ∧ s.pc.toNat + 1 < s.cfg.memSize ∧ 0x5121#16 = s.byte
      s.pc.toNat ++ s.byte (s.pc.toNat + 1) ∧
      decodeWord s.cfg 0x5121 = .unrecognized 0x5121 ∧ s.cfg.unknownOpcode = .strict := by decide

/-- QuitStopsBeforeTimersAndFetch, in both modes. -/
theorem test_hyp_quit :
    State.reset.mode ≠ .stopped ∧ (withInput State.reset 0 true true).input.quit = true ∧
    busy.mode ≠ .stopped ∧ (withInput busy 0 true true).input.quit = true := by decide

/-- KeyWaitWithoutKeyOnlyRefreshes, LEVEL. -/
theorem test_hyp_no_key_level :
    let s := withInput busy 0 false true
    s.mode = .awaitingKey ∧ s.input.quit = false ∧ ∀ k, k < 16 → s.input.keys.getLsbD k = true →
      s.cfg.keyTrigger = .edge ∧ s.keys.getLsbD k = true := by decide

/-- KeyWaitWithoutKeyOnlyRefreshes, EDGE with held keys. -/
theorem test_hyp_no_key_edge :
    let s := withInput { busy with cfg := other, keys := 0x8001 } 0x8001 false true
    s.mode = .awaitingKey ∧ s.input.quit = false ∧ ∀ k, k < 16 → s.input.keys.getLsbD k = true →
      s.cfg.keyTrigger = .edge ∧ s.keys.getLsbD k = true := by decide

/-- KeyWaitLoadsTheLowestPressedKey, LEVEL, the highest key. -/
theorem test_hyp_key_level :
    let s := withInput busy 0x8000 false true
    s.mode = .awaitingKey ∧ s.input.quit = false ∧ 15 < 16 ∧ s.input.keys.getLsbD 15 = true ∧
      (s.cfg.keyTrigger = .edge → s.keys.getLsbD 15 = false) ∧ ∀ j, j < 15 → s.input.keys.getLsbD j
        = true →
        s.cfg.keyTrigger = .edge ∧ s.keys.getLsbD j = true := by decide

/-- KeyWaitLoadsTheLowestPressedKey, EDGE with a lower key held. -/
theorem test_hyp_key_edge :
    let s := withInput { busy with cfg := other, keys := 0x0001 } 0x0003 false true
    s.mode = .awaitingKey ∧ s.input.quit = false ∧ 1 < 16 ∧ s.input.keys.getLsbD 1 = true ∧
      (s.cfg.keyTrigger = .edge → s.keys.getLsbD 1 = false) ∧ ∀ j, j < 1 → s.input.keys.getLsbD j =
        true →
        s.cfg.keyTrigger = .edge ∧ s.keys.getLsbD j = true := by decide

/-- TimerReadSeesThisTicksDecrement. -/
theorem test_hyp_timer_read :
    let s := withInput (code 0xF1 0x07) 0 false true
    s.mode = .running ∧ s.input.quit = false ∧ s.pc.toNat + 1 < s.cfg.memSize ∧
      s.byte s.pc.toNat ++ s.byte (s.pc.toNat + 1) = (0xF#4 ++ 1#4 ++ 0x07#8 : Word) := by decide

/-- ReturnPopsTheStack, both clauses; ReturnOnEmptyStackUnderflows. -/
theorem test_hyp_ret :
    0 < busy.sp ∧ busy.stack[busy.sp - 1]? = some 0x202 ∧ State.reset.sp = 0 := by decide

/-- ReturnPopsTheStack and JumpGoesToItsAddress, a target that cannot be fetched from. -/
theorem test_hyp_ret_out :
    ({ State.reset with cfg := small 0x202 }).cfg.memSize ≤ (0x201#17).toNat + 1 ∧ (small
      0x202).memSize ≤ (0x201#12).toNat + 1 := by decide

/-- CallPushesTheReturnAddress at both ends, CallOnFullStackOverflows, ReturnUndoesCall. -/
theorem test_hyp_call :
    { busy with sp := 15 }.sp < busy.cfg.stackDepth ∧ ({ State.reset with sp := 15 } :
      State).stackOk ∧
    { State.reset with sp := 16 : State }.sp = State.reset.cfg.stackDepth := by decide

/-- ImmediateSkips and RegisterSkips, every condition. -/
theorem test_hyp_skips :
    State.reset.reg 3 = 0 ∧ State.reset.reg 3 ≠ 1 ∧ State.reset.reg 3 = State.reset.reg 4 ∧
    (regs State.reset [(3, 1)]).reg 3 ≠ (regs State.reset [(3, 1)]).reg 4 := by decide

/-- IndexAddAndGlyphAddress. -/
theorem test_hyp_glyph :
    State.reset.cfg.wf := by decide

/-- DecimalDigitsAreStored, RegistersAreStored, RegistersAreLoaded at the last addresses that fit. -/
theorem test_hyp_data_inside :
    0xFFD + 2 < State.reset.cfg.memSize ∧ 0xFF0 + (15#4).toNat < State.reset.cfg.memSize ∧
      (0xFFD#16).toNat = 0xFFD := by decide

/-- DataAccessOutsideMemoryIsFatal, every clause at the first range that does not fit. -/
theorem test_hyp_data_outside :
    let s := { State.reset with i := 0xFFE }
    s.cfg.memSize ≤ s.i.toNat + 2 ∧ s.cfg.memSize ≤ s.i.toNat + (2#4).toNat ∧ 0 < 3 ∧ s.cfg.memSize
      ≤ s.i.toNat + 3 - 1 := by decide

/-- StoreIsSeenByTheNextFetch, both bytes of the next word. -/
theorem test_hyp_store_whole_word :
    let s := { State.reset with i := 0x202 }
    s.pc.toNat < 0x1FFFE ∧ s.pc.toNat + 3 < s.cfg.memSize ∧ s.i.toNat + (1#4).toNat < s.cfg.memSize
      ∧ s.i.toNat + 2 < s.cfg.memSize ∧ s.i.toNat = s.pc.toNat + 2 ∧ 1#4 ≤ 1#4 ∧ s.i.toNat +
      (0#4).toNat = s.pc.toNat + 2 ∧ s.i.toNat + (1#4).toNat = s.pc.toNat + 3 := by decide

/-- StoreIsSeenByTheNextFetch, the low byte alone. -/
theorem test_hyp_store_low_byte :
    let s := { State.reset with i := 0x203 }
    s.pc.toNat < 0x1FFFE ∧ s.pc.toNat + 3 < s.cfg.memSize ∧ s.i.toNat + (1#4).toNat < s.cfg.memSize
      ∧ s.i.toNat + 2 < s.cfg.memSize ∧ s.i.toNat = s.pc.toNat + 3 ∧ s.i.toNat + (0#4).toNat =
      s.pc.toNat + 3 ∧ ∀ r : Fin 16, s.i.toNat + r.val ≠ s.pc.toNat + 2 := by decide

/-- StoreIsSeenByTheNextFetch, the second and third byte. -/
theorem test_hyp_store_from_below :
    let s := { State.reset with i := 0x201 }
    s.pc.toNat < 0x1FFFE ∧ s.pc.toNat + 3 < s.cfg.memSize ∧ s.i.toNat + (1#4).toNat < s.cfg.memSize
      ∧ s.i.toNat + 2 < s.cfg.memSize ∧ s.i.toNat = s.pc.toNat + 1 := by decide

/-- StoreIsSeenByTheNextFetch, its own word: LD B reaches the high byte. -/
theorem test_hyp_store_own_word :
    let s := { State.reset with i := 0x200 }
    s.pc.toNat < 0x1FFFE ∧ s.pc.toNat + 3 < s.cfg.memSize ∧ s.i.toNat + (1#4).toNat < s.cfg.memSize
      ∧ s.i.toNat + 2 < s.cfg.memSize ∧ s.i.toNat = s.pc.toNat ∧ s.i.toNat + (1#4).toNat <
      s.pc.toNat + 2 := by decide

/-- StoreIsSeenByTheNextFetch, no byte of the next word. -/
theorem test_hyp_store_elsewhere :
    let s := { State.reset with i := 0x204 }
    s.pc.toNat < 0x1FFFE ∧ s.pc.toNat + 3 < s.cfg.memSize ∧ s.i.toNat + (1#4).toNat < s.cfg.memSize
      ∧ s.i.toNat + 2 < s.cfg.memSize ∧ s.pc.toNat + 3 < s.i.toNat := by decide

/-- ClearTurnsEveryPixelOff, DelayTimerIsReadAndSoundTimerIsSet. -/
theorem test_hyp_not_stopped :
    State.reset.mode ≠ .stopped := by decide

/-- The three draw statements, at the last address that fits; with no row the other side of the or holds. -/
theorem test_hyp_draw_inside :
    let s := { State.reset with i := 0xFF1 }
    s.i.toNat + 15 ≤ s.cfg.memSize ∧ (1 : Reg) ≠ 15 ∧ (2 : Reg) ≠ 15 := by decide

/-- DrawFlagsCollisions, a pixel that goes off. -/
theorem test_hyp_draw_collides :
    spriteHits { State.reset with fb := [(0, 0)] } 1 2 1 0 0 = 1 ∧ State.pixel { State.reset with fb
      := [(0, 0)] } 0 0 = true := by decide

/-- DrawFlagsCollisions, no collision. -/
theorem test_hyp_draw_does_not_collide :
    ∀ p q, ¬((State.reset.pixel p q = true ∧ 1 ≤ spriteHits State.reset 1 2 0 p q) ∨ 2 ≤ spriteHits
      State.reset 1 2 0 p q) := by
  intro p q
  simp [spriteHits, State.pixel, State.reset, Framebuffer.on]

/-- KeySkips, both conditions. -/
theorem test_hyp_key_down :
    let s := { regs State.reset [(0, 15)] with keys := 0x8000 }
    ((s.reg 0).toNat ≤ 15 ∧ s.keys.getLsbD (s.reg 0).toNat = true) ∧
      ¬((State.reset.reg 0).toNat ≤ 15 ∧ State.reset.keys.getLsbD (State.reset.reg 0).toNat = true) := by decide

/-- OnlyTheListedInstructionsChangeState. -/
theorem test_hyp_changes_index :
    (next? (exec (.ldI 5) State.reset)).any (fun t => t.i != State.reset.i) = true := by decide

/-- OnlyTheListedInstructionsChangeState. -/
theorem test_hyp_changes_stack :
    (next? (exec (.call 0x300) State.reset)).any (fun t => t.sp != State.reset.sp) = true := by decide

/-- OnlyTheListedInstructionsChangeState. -/
theorem test_hyp_changes_timers :
    (next? (exec (.ldDtVx 0) (regs State.reset [(0, 1)]))).any (fun t => t.dt != State.reset.dt) =
      true := by decide

/-- OnlyTheListedInstructionsChangeState. -/
theorem test_hyp_changes_sound :
    (next? (exec (.ldStVx 0) (regs State.reset [(0, 1)]))).any (fun t => t.st != State.reset.st) =
      true := by decide

/-- OnlyTheListedInstructionsChangeState. -/
theorem test_hyp_changes_memory :
    (next? (exec (.stRegs 0) { regs State.reset [(0, 1)] with i := 0x300 })).any (fun t => t.byte
      0x300 != State.reset.byte 0x300) = true := by decide

/-- OnlyTheListedInstructionsChangeState. -/
theorem test_hyp_changes_pixels :
    (next? (exec (.cls) busy)).any (fun t => t.pixel 3 1 != busy.pixel 3 1) = true := by decide

/-- OnlyTheListedInstructionsChangeState. -/
theorem test_hyp_changes_stopped :
    (next? (exec (.halt) State.reset)).any (fun t => t.mode != State.reset.mode && t.stopReason ==
      some .halt) = true := by decide

/-- OnlyTheListedInstructionsChangeState. -/
theorem test_hyp_changes_stopped_by_ret :
    (next? (exec (.ret) State.reset)).any (fun t => t.mode != State.reset.mode && t.stopReason ==
      some (.fatal .stackUnderflow)) = true := by decide

/-- OnlyTheListedInstructionsChangeState. -/
theorem test_hyp_changes_stopped_by_call :
    (next? (exec (.call 0x300) { State.reset with sp := 16 })).any (fun t => t.stopReason == some
      (.fatal .stackOverflow)) = true := by decide

/-- OnlyTheListedInstructionsChangeState. -/
theorem test_hyp_changes_stopped_by_access :
    (next? (exec (.ldB 0) { State.reset with i := 0xFFE })).any (fun t => t.stopReason == some
      (.fatal .dataBounds)) = true := by decide

/-- OnlyTheListedInstructionsChangeState. -/
theorem test_hyp_changes_mode :
    (next? (exec (.ldVxK 3) State.reset)).any (fun t => t.mode != State.reset.mode && t.pendingReg
      != State.reset.pendingReg) = true := by decide

/-- VfChangesOnlyAsFlagOrDestination. -/
theorem test_hyp_changes_vf :
    (next? (exec (.addReg 0 0) (regs State.reset [(0, 0x80)]))).any (fun t => t.reg 15 !=
      State.reset.reg 15) = true := by decide

/-- OutputPortsShowTheState. -/
theorem test_hyp_outputs :
    0 < State.reset.cfg.fbW ∧ 31 < State.reset.cfg.fbH ∧ State.reset.mode ≠ .stopped ∧
    { State.reset with mode := .stopped, stopReason := some (.fatal .loadError) : State }.mode =
      .stopped := by decide

end Sys2Proof.Tests
end

section
/-! PROOF. The control-flow statements (41_control_flow.md): RET, JP, CALL and the immediate skips. Before
them the rules they share: how a word decodes once its row is known, what a jump, a change of the CallStack
and a fatal stop leave unchanged, and what RET and CALL answer at each end of the stack. -/

namespace Sys2Proof.Proofs

open Sys2Proof.Machine Sys2Proof.Laws

/-! ### Decoding by the selected row -/

/-- A word that selects a row of the map is not the HALT word (R85). -/
theorem ne_zero_of_selects {r : OpRow} {w : Word} (hr : r ∈ opcodeMap) (hs : r.selects w = true) :
    w ≠ 0 := by
  have hzero : ∀ q ∈ opcodeMap, q.selects 0 = false := by decide
  rintro rfl
  exact Bool.false_ne_true ((hzero r hr).symm.trans hs)

/-- A row that is the only selected one is the row the search finds. -/
theorem find_row_of_unique {r : OpRow} {w : Word} (hr : r ∈ opcodeMap) (hs : r.selects w = true)
    (hone : (opcodeMap.filter fun q => q.selects w).length = 1) :
    opcodeMap.find? (fun q => q.selects w) = some r := by
  obtain ⟨q, hq⟩ := List.length_eq_one_iff.mp hone
  have hmem : r ∈ opcodeMap.filter fun q => q.selects w := List.mem_filter.mpr ⟨hr, hs⟩
  have hrq : r = q := by simpa [hq] using hmem
  rw [← List.head?_filter, hq, hrq, List.head?_cons]

/-- The word of an instruction other than HALT decodes by any row of the map that it selects. -/
theorem decodeWord_encode_of_row (c : Config) {i : Instr} {r : OpRow} (hi : i ≠ .halt)
    (hone : SelectsOneRow.Statement i) (hr : r ∈ opcodeMap) (hs : r.selects (encode i) = true) :
    decodeWord c (encode i) = .instr (r.build (describe (encode i))) := by
  rw [SelectsOneRow.Statement, if_neg hi] at hone
  rw [decodeWord, if_neg fun h => ne_zero_of_selects hr hs h.1, find_row_of_unique hr hs hone]

/-- The address operand of a word of format NNN (R81, R82). -/
theorem describe_nnn (k : BitVec 4) (nnn : Addr) : (describe (k ++ nnn : Word)).nnn = nnn := by
  rw [nibbles_nnn, describe_nibbles]
  exact addr_nibbles nnn

/-- The register operand of a word of format XKK. -/
theorem describe_xkk_x (k x : BitVec 4) (kk : Byte) : (describe (k ++ x ++ kk : Word)).x = x := by
  rw [nibbles_xkk, describe_nibbles]

/-- The immediate operand of a word of format XKK. -/
theorem describe_xkk_kk (k x : BitVec 4) (kk : Byte) : (describe (k ++ x ++ kk : Word)).kk = kk := by
  rw [nibbles_xkk, describe_nibbles]
  exact byte_nibbles kk

theorem decodeWord_ret (c : Config) : decodeWord c 0x00EE = .instr .ret :=
  decodeWord_encode_of_row (r := ⟨0x00EE, 0xFFFF, fun _ => .ret⟩) c (by simp) SelectsOneRow.ret
    (by simp [opcodeMap, opRowsLow]) (by decide)

theorem decodeWord_jp (c : Config) (nnn : Addr) : decodeWord c (0x1#4 ++ nnn) = .instr (.jp nnn) := by
  have h := decodeWord_encode_of_row (r := ⟨0x1000, 0xF000, fun d => .jp d.nnn⟩) c (by simp)
    (SelectsOneRow.jp nnn) (by simp [opcodeMap, opRowsLow])
    (by simp [encode, nibbles_nnn, selects_nibbles])
  simpa only [encode, describe_nnn] using h

theorem decodeWord_call (c : Config) (nnn : Addr) :
    decodeWord c (0x2#4 ++ nnn) = .instr (.call nnn) := by
  have h := decodeWord_encode_of_row (r := ⟨0x2000, 0xF000, fun d => .call d.nnn⟩) c (by simp)
    (SelectsOneRow.call nnn) (by simp [opcodeMap, opRowsLow])
    (by simp [encode, nibbles_nnn, selects_nibbles])
  simpa only [encode, describe_nnn] using h

theorem decodeWord_seImm (c : Config) (x : Reg) (kk : Byte) :
    decodeWord c (0x3#4 ++ x ++ kk) = .instr (.seImm x kk) := by
  have h := decodeWord_encode_of_row (r := ⟨0x3000, 0xF000, fun d => .seImm d.x d.kk⟩) c (by simp)
    (SelectsOneRow.seImm x kk) (by simp [opcodeMap, opRowsLow])
    (by simp [encode, nibbles_xkk, selects_nibbles])
  simpa only [encode, describe_xkk_x, describe_xkk_kk] using h

theorem decodeWord_sneImm (c : Config) (x : Reg) (kk : Byte) :
    decodeWord c (0x4#4 ++ x ++ kk) = .instr (.sneImm x kk) := by
  have h := decodeWord_encode_of_row (r := ⟨0x4000, 0xF000, fun d => .sneImm d.x d.kk⟩) c (by simp)
    (SelectsOneRow.sneImm x kk) (by simp [opcodeMap, opRowsLow])
    (by simp [encode, nibbles_xkk, selects_nibbles])
  simpa only [encode, describe_xkk_x, describe_xkk_kk] using h

/-! ### Frames of the control-flow operations -/

/-- A jump changes PC alone. -/
theorem frame_jump (s : State) (target : Pc) : Frame s (s.jump target) [.pc] := by
  intro p hp
  cases p with
  | pc => simp at hp
  | stack => exact ⟨rfl, fun _ => rfl⟩
  | regs | memory => exact fun _ => rfl
  | pixels => exact fun _ _ => rfl
  | _ => rfl

/-- A skip is a jump by 4 or by 2 (R13, R106). -/
theorem skipIf_eq_jump (s : State) (cond : Bool) :
    s.skipIf cond = s.jump (s.pc + (if cond then 4 else 2)) := rfl

/-- A skip changes PC alone. -/
theorem frame_skipIf (s : State) (cond : Bool) : Frame s (s.skipIf cond) [.pc] := by
  rw [skipIf_eq_jump]
  exact frame_jump s _

/-- New values of the CallStack, SP and PC leave every other part. -/
theorem frame_callStack (s : State) (stack : List Pc) (sp : Nat) (pc : Pc) :
    Frame s { s with stack := stack, sp := sp, pc := pc } [.pc, .stack] := by
  intro p hp
  cases p with
  | pc | stack => simp at hp
  | regs | memory => exact fun _ => rfl
  | pixels => exact fun _ _ => rfl
  | _ => rfl

/-- A fatal stop changes Mode, StopReason and the outputs alone (60_exceptions.md R266). -/
theorem frame_fatal (s : State) (kind : FatalKind) (word : Option Word) (addr : Option Nat) :
    Frame s (s.fatal kind word addr) [.mode, .stopReason, .diag, .redraw, .tone] := by
  intro p hp
  cases p with
  | mode | stopReason | diag | redraw | tone => simp at hp
  | stack => exact ⟨rfl, fun _ => rfl⟩
  | regs | memory => exact fun _ => rfl
  | pixels => exact fun _ _ => rfl
  | _ => rfl

/-- The operation `fatal` leaves what R266 says. -/
theorem fatalStop_fatal (s : State) (kind : FatalKind) (word : Option Word) (addr : Option Nat) :
    FatalStop s (s.fatal kind word addr) kind word addr :=
  ⟨rfl, rfl, rfl, rfl, rfl, rfl, rfl, frame_fatal s kind word addr⟩

/-! ### RET, CALL and jump targets -/

/-- A 12-bit address keeps its value as a program counter. -/
theorem toNat_toPc_toWord (nnn : Addr) : nnn.toWord.toPc.toNat = nnn.toNat := by
  simp only [BitVec.toNat_setWidth]
  omega

/-- RET with an entry to pop. -/
theorem exec_ret_of_pos (s : State) (h : 0 < s.sp) :
    exec .ret s = .next { s with sp := s.sp - 1, pc := s.stack.getD (s.sp - 1) 0 } :=
  if_neg (Nat.ne_of_gt h)

/-- RET on an empty CallStack. -/
theorem exec_ret_of_empty (s : State) (h : s.sp = 0) :
    exec .ret s = .next (s.fatal .stackUnderflow (some (encode .ret)) none) :=
  if_pos h

/-- CALL with room on the CallStack. -/
theorem exec_call_of_room (nnn : Addr) (s : State) (h : s.sp < s.cfg.stackDepth) :
    exec (.call nnn) s =
      .next { s with stack := s.stack.set s.sp (s.pc + 2), sp := s.sp + 1, pc := nnn.toWord.toPc } :=
  if_neg (Nat.not_le.mpr h)

/-- CALL on a full CallStack. -/
theorem exec_call_of_full (nnn : Addr) (s : State) (h : s.cfg.stackDepth ≤ s.sp) :
    exec (.call nnn) s = .next (s.fatal .stackOverflow (some (encode (.call nnn))) none) :=
  if_pos h

/-! ### The obligations -/

/-- Settles O27, by whether the CallStack is empty. -/
theorem returnPopsTheStack : Obligations.ReturnPopsTheStack := by
  intro s
  refine ⟨decodeWord_ret, ?_, ?_⟩
  · intro v hsp htop
    have hpc : s.stack.getD (s.sp - 1) 0 = v := by
      rw [List.getD_eq_getElem?_getD, htop, Option.getD_some]
    refine ⟨_, exec_ret_of_pos s hsp, hpc, rfl, rfl, ?_, frame_callStack s _ _ _⟩
    intro hout
    rw [← hpc] at hout
    exact State.fetch_outside _ hout
  · intro hsp
    exact ⟨_, exec_ret_of_empty s hsp, fatalStop_fatal s _ _ _⟩

/-- Settles O28: JP is a jump to its address in 17 bits. -/
theorem jumpGoesToItsAddress : Obligations.JumpGoesToItsAddress := by
  intro nnn s
  have hpc : (s.jump nnn.toWord.toPc).pc.toNat = nnn.toNat := toNat_toPc_toWord nnn
  refine ⟨fun c => decodeWord_jp c nnn, _, rfl, hpc, ?_, frame_jump s _⟩
  intro hout
  rw [← hpc] at hout
  exact State.fetch_outside _ hout

/-- Settles O29, by whether the CallStack is full. -/
theorem callPushesTheReturnAddress : Obligations.CallPushesTheReturnAddress := by
  intro nnn s
  refine ⟨fun c => decodeWord_call c nnn, ?_, ?_⟩
  · rintro ⟨hlen, -, -⟩ hroom
    have hin : s.sp < s.stack.length := hlen.symm ▸ hroom
    exact ⟨_, exec_call_of_room nnn s hroom, List.getElem?_set_self hin,
      fun k hk => List.getElem?_set_ne hk.symm, rfl, toNat_toPc_toWord nnn, frame_callStack s _ _ _⟩
  · intro hfull
    exact ⟨_, exec_call_of_full nnn s hfull.ge, fatalStop_fatal s _ _ _⟩

/-- Settles O33: each skip is `skipIf` of its condition. -/
theorem immediateSkips : Obligations.ImmediateSkips := by
  intro x kk s
  refine ⟨fun c => ⟨decodeWord_seImm c x kk, decodeWord_sneImm c x kk⟩,
    ⟨_, rfl, frame_skipIf s _, ?_, ?_⟩, ⟨_, rfl, frame_skipIf s _, ?_, ?_⟩⟩
  all_goals
    intro hcond
    simp [hcond]

end Sys2Proof.Proofs
end

section
/-! PROOF. The loads and the immediate add (42_register_alu.md R150 to R152). Before them how their words
decode, and what an instruction that writes one register and goes on to the next word does. -/

namespace Sys2Proof.Proofs

open Sys2Proof.Machine Sys2Proof.Laws

/-! ### Decoding of the register loads and the immediate add -/

/-- The first register operand of a word of format XYS (R81, R82). -/
theorem describe_xys_x (k x y n : BitVec 4) : (describe (k ++ x ++ y ++ n : Word)).x = x := by
  rw [nibbles_xyn, describe_nibbles]

/-- The second register operand of a word of format XYS. -/
theorem describe_xys_y (k x y n : BitVec 4) : (describe (k ++ x ++ y ++ n : Word)).y = y := by
  rw [nibbles_xyn, describe_nibbles]

theorem decodeWord_ldImm (c : Config) (x : Reg) (kk : Byte) :
    decodeWord c (0x6#4 ++ x ++ kk) = .instr (.ldImm x kk) := by
  have h := decodeWord_encode_of_row (r := ⟨0x6000, 0xF000, fun d => .ldImm d.x d.kk⟩) c (by simp)
    (SelectsOneRow.ldImm x kk) (by simp [opcodeMap, opRowsLow])
    (by simp [encode, nibbles_xkk, selects_nibbles])
  simpa only [encode, describe_xkk_x, describe_xkk_kk] using h

theorem decodeWord_addImm (c : Config) (x : Reg) (kk : Byte) :
    decodeWord c (0x7#4 ++ x ++ kk) = .instr (.addImm x kk) := by
  have h := decodeWord_encode_of_row (r := ⟨0x7000, 0xF000, fun d => .addImm d.x d.kk⟩) c (by simp)
    (SelectsOneRow.addImm x kk) (by simp [opcodeMap, opRowsLow])
    (by simp [encode, nibbles_xkk, selects_nibbles])
  simpa only [encode, describe_xkk_x, describe_xkk_kk] using h

theorem decodeWord_ldReg (c : Config) (x y : Reg) :
    decodeWord c (0x8#4 ++ x ++ y ++ 0x0#4) = .instr (.ldReg x y) := by
  have h := decodeWord_encode_of_row (r := ⟨0x8000, 0xF00F, fun d => .ldReg d.x d.y⟩) c (by simp)
    (SelectsOneRow.ldReg x y) (by simp [opcodeMap, opRowsAlu])
    (by simp [encode, nibbles_xyn, selects_nibbles])
  simpa only [encode, describe_xys_x, describe_xys_y] using h

/-! ### One register written, then the next word -/

/-- The written register holds the byte, whichever register it is (VF among them). -/
theorem reg_setReg_next_same (s : State) (x : Reg) (b : Byte) : (s.setReg x b).next.reg x = b := by
  rw [State.next_reg, State.reg_setReg, if_pos rfl]

/-- Every other register keeps its byte. -/
theorem reg_setReg_next_of_ne (s : State) (x : Reg) (b : Byte) (r : Reg) (h : r ≠ x) :
    (s.setReg x b).next.reg r = s.reg r := by
  rw [State.next_reg, State.reg_setReg, if_neg h]

/-- A register write and the move to the next word change PC and the registers alone. -/
theorem frame_setReg_next (s : State) (x : Reg) (b : Byte) :
    Frame s (s.setReg x b).next [.pc, .regs] := by
  intro p hp
  cases p with
  | pc | regs => simp at hp
  | stack => exact ⟨rfl, fun _ => rfl⟩
  | memory => exact fun _ => rfl
  | pixels => exact fun _ _ => rfl
  | _ => rfl

/-! ### The obligation -/

/-- Settles O36: each of the three writes one byte to Vx by `setReg`, and no flag. -/
theorem loadsAndImmediateAdd : Obligations.LoadsAndImmediateAdd := by
  intro x y kk s
  have hsum : ((s.setReg x (s.reg x + kk)).next.reg x).toNat =
      ((s.reg x).toNat + kk.toNat) % 256 := by
    rw [reg_setReg_next_same, BitVec.toNat_add]
  exact ⟨fun c => ⟨decodeWord_ldImm c x kk, decodeWord_addImm c x kk, decodeWord_ldReg c x y⟩,
    ⟨_, rfl, reg_setReg_next_same s x _, reg_setReg_next_of_ne s x _, rfl, frame_setReg_next s x _⟩,
    ⟨_, rfl, hsum, reg_setReg_next_of_ne s x _, rfl, frame_setReg_next s x _⟩,
    ⟨_, rfl, reg_setReg_next_same s x _, reg_setReg_next_of_ne s x _, rfl, frame_setReg_next s x _⟩⟩

end Sys2Proof.Proofs
end

section
/-! PROOF. LD I,addr (43_index_memory.md R180). Before it how its word decodes, and what an instruction that
writes I and goes on to the next word leaves unchanged. -/

namespace Sys2Proof.Proofs

open Sys2Proof.Machine Sys2Proof.Laws

theorem decodeWord_ldI (c : Config) (nnn : Addr) :
    decodeWord c (0xA#4 ++ nnn) = .instr (.ldI nnn) := by
  have h := decodeWord_encode_of_row (r := ⟨0xA000, 0xF000, fun d => .ldI d.nnn⟩) c (by simp)
    (SelectsOneRow.ldI nnn) (by simp [opcodeMap, opRowsHigh])
    (by simp [encode, nibbles_nnn, selects_nibbles])
  simpa only [encode, describe_nnn] using h

/-- A 12-bit address keeps its value as a word: the zero extension of R180. -/
theorem toNat_toWord (nnn : Addr) : nnn.toWord.toNat = nnn.toNat :=
  BitVec.toNat_setWidth_of_le (by decide)

/-- A new value of I and the move to the next word change PC and I alone. -/
theorem frame_index_next (s : State) (i : Word) :
    Frame s { s with i := i : State }.next [.pc, .index] := by
  intro p hp
  cases p with
  | pc | index => simp at hp
  | stack => exact ⟨rfl, fun _ => rfl⟩
  | regs | memory => exact fun _ => rfl
  | pixels => exact fun _ _ => rfl
  | _ => rfl

/-- Settles O42: LD I,addr writes the zero-extended address to I, whatever MEM_SIZE is. -/
theorem loadIndexTakesTheAddress : Obligations.LoadIndexTakesTheAddress := by
  intro nnn s
  exact ⟨fun c => decodeWord_ldI c nnn, _, rfl, toNat_toWord nnn, rfl, frame_index_next s _⟩

end Sys2Proof.Proofs
end

section
/-! PROOF. CLS (44_display.md R200). Before it how its word decodes, what an instruction that replaces the
Framebuffer and goes on to the next word leaves unchanged, and when the end of a tick requests a redraw. -/

namespace Sys2Proof.Proofs

open Sys2Proof.Machine Sys2Proof.Laws

theorem decodeWord_cls (c : Config) : decodeWord c 0x00E0 = .instr .cls :=
  decodeWord_encode_of_row (r := ⟨0x00E0, 0xFFFF, fun _ => .cls⟩) c (by simp) SelectsOneRow.cls
    (by simp [opcodeMap, opRowsLow]) (by decide)

/-- With no pixel listed, every pixel is off. -/
theorem pixel_of_fb_nil (s : State) (h : s.fb = []) (x y : Nat) : s.pixel x y = false := by
  rw [State.pixel, h, Framebuffer.on, decide_eq_false List.not_mem_nil]

/-- A new Framebuffer and the move to the next word change PC and the pixels alone. -/
theorem frame_framebuffer_next (s : State) (fb : Framebuffer) :
    Frame s { s with fb := fb : State }.next [.pc, .pixels] := by
  intro p hp
  cases p with
  | pc | pixels => simp at hp
  | stack => exact ⟨rfl, fun _ => rfl⟩
  | regs | memory => exact fun _ => rfl
  | _ => rfl

/-- A tick that ends in an engine that is not stopped requests a redraw (R107). -/
theorem finish_redraw_of_not_stopped (s : State) (h : s.mode ≠ .stopped) : s.finish.redraw = true :=
  decide_eq_true h

/-- Settles O49: CLS replaces the Framebuffer by the one with no pixel on, and leaves Mode. -/
theorem clearTurnsEveryPixelOff : Obligations.ClearTurnsEveryPixelOff := by
  intro s
  exact ⟨decodeWord_cls, _, rfl, pixel_of_fb_nil _ rfl, rfl, finish_redraw_of_not_stopped _,
    frame_framebuffer_next s []⟩

end Sys2Proof.Proofs
end

section
/-! PROOF. LD Vx,DT in its tick and LD DT,Vx (45_timers_keys.md R220 to R222). Before them how their words
decode, how frames compose, what a tick that fetches a decoded word does, and the count of DT at the start of
a tick. -/

namespace Sys2Proof.Proofs

open Sys2Proof.Machine Sys2Proof.Laws

/-! ### Decoding of the delay-timer instructions -/

theorem decodeWord_ldVxDt (c : Config) (x : Reg) :
    decodeWord c (0xF#4 ++ x ++ 0x07#8) = .instr (.ldVxDt x) := by
  have h := decodeWord_encode_of_row (r := ⟨0xF007, 0xF0FF, fun d => .ldVxDt d.x⟩) c (by simp)
    (SelectsOneRow.ldVxDt x) (by simp [opcodeMap, opRowsHigh])
    (by simp [encode, nibbles_xkk, selects_nibbles])
  simpa only [encode, describe_xkk_x] using h

theorem decodeWord_ldDtVx (c : Config) (x : Reg) :
    decodeWord c (0xF#4 ++ x ++ 0x15#8) = .instr (.ldDtVx x) := by
  have h := decodeWord_encode_of_row (r := ⟨0xF015, 0xF0FF, fun d => .ldDtVx d.x⟩) c (by simp)
    (SelectsOneRow.ldDtVx x) (by simp [opcodeMap, opRowsHigh])
    (by simp [encode, nibbles_xkk, selects_nibbles])
  simpa only [encode, describe_xkk_x] using h

/-! ### Frames -/

/-- A part that two changes in a row both leave is left by the two together. -/
theorem unchanged_trans {s t u : State} {p : Part} (hst : Unchanged s t p) (htu : Unchanged t u p) :
    Unchanged s u p := by
  cases p with
  | stack => exact ⟨htu.1.trans hst.1, fun k => (htu.2 k).trans (hst.2 k)⟩
  | regs | memory => exact fun a => (htu a).trans (hst a)
  | pixels => exact fun x y => (htu x y).trans (hst x y)
  | _ => exact Eq.trans htu hst

/-- Two changes in a row leave what neither of them lists. -/
theorem frame_trans {s t u : State} {a b c : List Part} (hst : Frame s t a) (htu : Frame t u b)
    (ha : a ⊆ c) (hb : b ⊆ c) : Frame s u c :=
  fun p hp => unchanged_trans (hst p fun h => hp (ha h)) (htu p fun h => hp (hb h))

/-- The end of a tick changes the redraw and tone outputs alone (R107, R228). -/
theorem frame_finish (s : State) : Frame s s.finish [.redraw, .tone] := by
  intro p hp
  cases p with
  | redraw | tone => simp at hp
  | stack => exact ⟨rfl, fun _ => rfl⟩
  | regs | memory => exact fun _ => rfl
  | pixels => exact fun _ _ => rfl
  | _ => rfl

/-- A new value of DT and the move to the next word change PC and DT alone. -/
theorem frame_delayTimer_next (s : State) (dt : Byte) :
    Frame s { s with dt := dt : State }.next [.pc, .dt] := by
  intro p hp
  cases p with
  | pc | dt => simp at hp
  | stack => exact ⟨rfl, fun _ => rfl⟩
  | regs | memory => exact fun _ => rfl
  | pixels => exact fun _ _ => rfl
  | _ => rfl

/-! ### A tick that fetches -/

/-- A tick in RUNNING without a quit runs the fetched word after the timers (R100). -/
theorem step_of_running (s : State) (hm : s.mode = .running) (hq : s.input.quit = false) :
    step s = finishResult s.begin.runWord := by
  rw [step, tick, hm, hq]
  rfl

/-- A fetched word that decodes to an instruction is executed (R102, R103). -/
theorem runWord_of_decoded (s : State) (w : Word) (i : Instr) (hf : s.fetch = some w)
    (hd : decodeWord s.cfg w = .instr i) : s.runWord = exec i s := by
  rw [State.runWord, hf]
  simp only [hd]

/-- On a strobe DT counts down by 1 and stays at 0; without one it stays (R220). -/
theorem toNat_begin_dt (s : State) :
    s.begin.dt.toNat = s.dt.toNat - (if s.input.strobe then 1 else 0) := by
  rw [State.begin_dt]
  cases s.input.strobe with
  | false => simp
  | true =>
    by_cases hdt : s.dt = 0
    · simp [hdt]
    · have hle : (1 : Byte) ≤ s.dt := by bv_omega
      rw [if_pos ⟨rfl, hdt⟩]
      exact BitVec.toNat_sub_of_le hle

/-! ### The obligations -/

/-- Settles O25: the tick executes LD Vx,DT from the state after the timers, and ends it by `finish`. -/
theorem timerReadSeesThisTicksDecrement : Obligations.TimerReadSeesThisTicksDecrement := by
  intro s x hm hq hin hword
  have hfetch : s.begin.fetch = some (0xF#4 ++ x ++ 0x07#8) := by
    rw [State.begin_fetch, State.fetch_inside s hin, hword]
  have hstep : step s = .next (s.begin.setReg x s.begin.dt).next.finish := by
    rw [step_of_running s hm hq, runWord_of_decoded _ _ _ hfetch (decodeWord_ldVxDt _ x)]
    rfl
  have hread := reg_setReg_next_same s.begin x s.begin.dt
  refine ⟨_, hstep, ?_, hread.symm, ?_, ?_, ?_⟩
  · rw [State.finish_reg, hread, toNat_begin_dt]
  · intro r hr
    rw [State.finish_reg, reg_setReg_next_of_ne s.begin x _ r hr, State.begin_reg]
  · show s.begin.pc + 2 = s.pc + 2
    rw [State.begin_pc]
  · exact frame_trans (frame_setReg_next s.begin x _) (frame_finish _) (by simp) (by simp)

/-- Settles O53: LD DT,Vx replaces DT by Vx, whatever the byte. -/
theorem delayTimerIsSet : Obligations.DelayTimerIsSet := by
  intro x s
  exact ⟨fun c => decodeWord_ldDtVx c x, _, rfl, rfl, rfl, frame_delayTimer_next s _⟩

end Sys2Proof.Proofs
end

section
/-! PROOF. The two stack exceptions (60_exceptions.md R263, R264). What CALL and RET answer at the end of the
stack stands with the control-flow proofs; here it is read off field by field. -/

namespace Sys2Proof.Proofs

open Sys2Proof.Machine Sys2Proof.Laws

/-- Settles O30: on a full stack CALL is a fatal stop, which keeps SP, the CallStack and PC. -/
theorem callOnFullStackOverflows : Obligations.CallOnFullStackOverflows := by
  intro nnn s hfull
  exact ⟨_, exec_call_of_full nnn s hfull.ge, State.fatal_mode s _ _ _, State.fatal_stopReason s _ _ _,
    State.fatal_sp s _ _ _, State.fatal_stack s _ _ _, State.fatal_pc s _ _ _⟩

/-- Settles O31: on an empty stack RET is a fatal stop, which keeps PC. -/
theorem returnOnEmptyStackUnderflows : Obligations.ReturnOnEmptyStackUnderflows := by
  intro s hempty
  exact ⟨_, exec_ret_of_empty s hempty, State.fatal_mode s _ _ _, State.fatal_stopReason s _ _ _,
    State.fatal_pc s _ _ _⟩

end Sys2Proof.Proofs
end

section
/-! PROOF. Encoding (30_encoding.md sections 1 to 3): no word selects two rows of the opcode map, so a word
decodes by whichever row it selects; and, format by format, a word selects a row exactly when it is the row's
pattern around the word's own operand fields. The round trips and the UNRECOGNIZED words follow. -/

namespace Sys2Proof.Proofs

open Sys2Proof.Machine Sys2Proof.Laws

/-! ### At most one row -/

/-- Of any two rows of the map, the patterns differ in a bit that both masks fix. -/
theorem opcodeMap_disjoint :
    opcodeMap.Pairwise fun r q => r.pattern &&& q.mask ≠ q.pattern &&& r.mask := by
  decide

/-- Two rows that one word selects agree on the bits that both masks fix. -/
theorem patterns_agree_of_selects {r q : OpRow} {w : Word} (hr : r.selects w = true)
    (hq : q.selects w = true) : r.pattern &&& q.mask = q.pattern &&& r.mask := by
  simp only [OpRow.selects, beq_iff_eq] at hr hq
  rw [← hr, ← hq, BitVec.and_assoc, BitVec.and_assoc, BitVec.and_comm r.mask]

/-- Settles O5: two selected rows would agree where the rows of the map differ. -/
theorem noWordSelectsTwoRows : Obligations.NoWordSelectsTwoRows := by
  refine ⟨fun w => ?_, by decide⟩
  have hpair := opcodeMap_disjoint.filter fun r => r.selects w
  have hsel : ∀ r ∈ opcodeMap.filter fun r => r.selects w, r.selects w = true :=
    fun r hr => (List.mem_filter.mp hr).2
  generalize opcodeMap.filter (fun r => r.selects w) = rows at hpair hsel
  match rows with
  | [] => exact Nat.zero_le 1
  | [_] => exact Nat.le_refl 1
  | r :: q :: rest =>
    have hne := List.rel_of_pairwise_cons hpair (List.mem_cons_self ..)
    exact absurd (patterns_agree_of_selects (hsel r (by simp)) (hsel q (by simp))) hne

/-- A word decodes by any row of the map that it selects. -/
theorem decodeWord_of_selects (c : Config) {r : OpRow} {w : Word} (hr : r ∈ opcodeMap)
    (hs : r.selects w = true) : decodeWord c w = .instr (r.build (describe w)) := by
  have hmem : r ∈ opcodeMap.filter fun q => q.selects w := List.mem_filter.mpr ⟨hr, hs⟩
  have hone := Nat.le_antisymm (noWordSelectsTwoRows.1 w) (List.length_pos_of_mem hmem)
  rw [decodeWord, if_neg fun h => ne_zero_of_selects hr hs h.1, find_row_of_unique hr hs hone]

/-- What a word that decodes to an instruction is: the HALT word, or a word that selects a row. -/
theorem decodeWord_instr_cases {c : Config} {w : Word} {i : Instr} (h : decodeWord c w = .instr i) :
    (w = 0 ∧ c.zeroWordHalt = true ∧ i = .halt) ∨
      ∃ r ∈ opcodeMap, r.selects w = true ∧ i = r.build (describe w) := by
  unfold decodeWord at h
  split at h
  · rename_i hz
    exact .inl ⟨hz.1, hz.2, (Decoded.instr.inj h).symm⟩
  · split at h
    · rename_i r hfind
      exact .inr ⟨r, List.mem_of_find?_eq_some hfind, List.find?_some (p := fun q => OpRow.selects q w) hfind,
        (Decoded.instr.inj h).symm⟩
    · cases h

/-- A word is UNRECOGNIZED when it is neither the HALT word nor one that selects a row (R86, R87). -/
theorem decodeWord_unrecognized_iff (c : Config) (w : Word) :
    decodeWord c w = .unrecognized w ↔
      ¬(w = 0 ∧ c.zeroWordHalt = true) ∧ ∀ r ∈ opcodeMap, r.selects w = false := by
  unfold decodeWord
  split
  · simp [*]
  · split
    · rename_i r hfind
      have hs : r.selects w = true := List.find?_some (p := fun q => OpRow.selects q w) hfind
      have hno : ¬∀ q ∈ opcodeMap, q.selects w = false := fun h =>
        Bool.false_ne_true ((h r (List.mem_of_find?_eq_some hfind)).symm.trans hs)
      simp [hno]
    · rename_i hfind
      have hno : ∀ r ∈ opcodeMap, r.selects w = false := by simpa using hfind
      exact iff_of_true rfl ⟨by assumption, hno⟩

/-! ### The rows, format by format (R82, R83) -/

/-- A mask nibble F keeps the nibble. -/
theorem and_mask_nibble (d : BitVec 4) : d &&& 15#4 = d := BitVec.and_allOnes

/-- A row of format NNN: the class nibble, then the address. -/
theorem selects_nnn (k : BitVec 4) (build : Descriptor → Instr) (w : Word) :
    (⟨k ++ 0#12, 0xF000, build⟩ : OpRow).selects w = true ↔ w = k ++ (describe w).nnn := by
  rw [← nibbles_extract w]
  generalize w.extractLsb' 12 4 = a, w.extractLsb' 8 4 = x, w.extractLsb' 4 4 = y, w.extractLsb' 0 4 = n
  rw [describe_nibbles, append_addr, nibbles_inj]
  simp [selects_nibbles, nibbles_nnn, and_mask_nibble]

/-- A row of format XKK: the class nibble, then a register and an immediate. -/
theorem selects_xkk (k : BitVec 4) (build : Descriptor → Instr) (w : Word) :
    (⟨k ++ 0#12, 0xF000, build⟩ : OpRow).selects w = true ↔
      w = k ++ (describe w).x ++ (describe w).kk := by
  rw [← nibbles_extract w]
  generalize w.extractLsb' 12 4 = a, w.extractLsb' 8 4 = x, w.extractLsb' 4 4 = y, w.extractLsb' 0 4 = n
  rw [describe_nibbles, append_byte, nibbles_inj]
  simp [selects_nibbles, nibbles_nnn, and_mask_nibble]

/-- A row of format XYS: the class nibble, two registers and the operation nibble. -/
theorem selects_xys (k op : BitVec 4) (build : Descriptor → Instr) (w : Word) :
    (⟨k ++ 0#4 ++ 0#4 ++ op, 0xF00F, build⟩ : OpRow).selects w = true ↔
      w = k ++ (describe w).x ++ (describe w).y ++ op := by
  rw [← nibbles_extract w]
  generalize w.extractLsb' 12 4 = a, w.extractLsb' 8 4 = x, w.extractLsb' 4 4 = y, w.extractLsb' 0 4 = n
  simp [selects_nibbles, describe_nibbles, nibbles_xyn, nibbles_inj, and_mask_nibble]

/-- A row of a class nibble, a register and an operation byte. -/
theorem selects_xop (k : BitVec 4) (op : Byte) (build : Descriptor → Instr) (w : Word) :
    (⟨k ++ 0#4 ++ op, 0xF0FF, build⟩ : OpRow).selects w = true ↔ w = k ++ (describe w).x ++ op := by
  rw [← nibbles_extract w]
  generalize w.extractLsb' 12 4 = a, w.extractLsb' 8 4 = x, w.extractLsb' 4 4 = y, w.extractLsb' 0 4 = n
  simp [selects_nibbles, describe_nibbles, nibbles_xkk, nibbles_inj, and_mask_nibble]

/-! ### Decoding an encoded instruction -/

/-- Decoding in format NNN. -/
theorem decodeWord_nnn (c : Config) {j : Nat} {k : BitVec 4} {build : Addr → Instr}
    (hrow : opcodeMap[j]? = some ⟨k ++ 0#12, 0xF000, fun d => build d.nnn⟩) (nnn : Addr) :
    decodeWord c (k ++ nnn) = .instr (build nnn) := by
  have hs := (selects_nnn k (fun d => build d.nnn) (k ++ nnn)).mpr (by rw [describe_nnn])
  simp only [decodeWord_of_selects c (List.mem_of_getElem? hrow) hs, describe_nnn]

/-- Decoding in format XKK. -/
theorem decodeWord_xkk (c : Config) {j : Nat} {k : BitVec 4} {build : Reg → Byte → Instr}
    (hrow : opcodeMap[j]? = some ⟨k ++ 0#12, 0xF000, fun d => build d.x d.kk⟩) (x : Reg) (kk : Byte) :
    decodeWord c (k ++ x ++ kk) = .instr (build x kk) := by
  have hs := (selects_xkk k (fun d => build d.x d.kk) (k ++ x ++ kk)).mpr
    (by rw [describe_xkk_x, describe_xkk_kk])
  simp only [decodeWord_of_selects c (List.mem_of_getElem? hrow) hs, describe_xkk_x, describe_xkk_kk]

/-- Decoding in format XYS. -/
theorem decodeWord_xys (c : Config) {j : Nat} {k op : BitVec 4} {build : Reg → Reg → Instr}
    (hrow : opcodeMap[j]? = some ⟨k ++ 0#4 ++ 0#4 ++ op, 0xF00F, fun d => build d.x d.y⟩) (x y : Reg) :
    decodeWord c (k ++ x ++ y ++ op) = .instr (build x y) := by
  have hs := (selects_xys k op (fun d => build d.x d.y) (k ++ x ++ y ++ op)).mpr
    (by rw [describe_xys_x, describe_xys_y])
  simp only [decodeWord_of_selects c (List.mem_of_getElem? hrow) hs, describe_xys_x, describe_xys_y]

/-- Decoding of a register and an operation byte. -/
theorem decodeWord_xop (c : Config) {j : Nat} {k : BitVec 4} {op : Byte} {build : Reg → Instr}
    (hrow : opcodeMap[j]? = some ⟨k ++ 0#4 ++ op, 0xF0FF, fun d => build d.x⟩) (x : Reg) :
    decodeWord c (k ++ x ++ op) = .instr (build x) := by
  have hs := (selects_xop k op (fun d => build d.x) (k ++ x ++ op)).mpr (by rw [describe_xkk_x])
  simp only [decodeWord_of_selects c (List.mem_of_getElem? hrow) hs, describe_xkk_x]

theorem decodeWord_halt (c : Config) (h : c.zeroWordHalt = true) : decodeWord c 0x0000 = .instr .halt :=
  if_pos ⟨rfl, h⟩

/-- DRW keeps its row count, which is one nibble. -/
theorem decodeWord_drw (c : Config) (x y : Reg) (n : Nat) (hn : n < 16) :
    decodeWord c (0xD#4 ++ x ++ y ++ BitVec.ofNat 4 n) = .instr (.drw x y n) := by
  have hdesc := describe_nibbles 0xD#4 x y (BitVec.ofNat 4 n)
  have hsel : (⟨0xD000, 0xF000, fun d => .drw d.x d.y d.n.toNat⟩ : OpRow).selects
      (nibbles 0xD#4 x y (BitVec.ofNat 4 n)) = true := by
    simp [selects_nibbles]
  have hmem : opcodeMap[22]? = some ⟨0xD000, 0xF000, fun d => .drw d.x d.y d.n.toNat⟩ := rfl
  rw [nibbles_xyn, decodeWord_of_selects c (List.mem_of_getElem? hmem) hsel, hdesc]
  simp [Nat.mod_eq_of_lt hn]

/-- Settles O2, format by format: each instruction's word is its row's pattern around its operands. -/
theorem decodeInvertsEncode : Obligations.DecodeInvertsEncode := by
  intro c i hwf
  cases i with
  | halt => exact decodeWord_halt c hwf
  | cls => exact decodeWord_cls c
  | ret => exact decodeWord_ret c
  | jp nnn => exact decodeWord_nnn c (j := 2) rfl nnn
  | call nnn => exact decodeWord_nnn c (j := 3) rfl nnn
  | seImm x kk => exact decodeWord_xkk c (j := 4) rfl x kk
  | sneImm x kk => exact decodeWord_xkk c (j := 5) rfl x kk
  | seReg x y => exact decodeWord_xys c (j := 6) rfl x y
  | ldImm x kk => exact decodeWord_xkk c (j := 7) rfl x kk
  | addImm x kk => exact decodeWord_xkk c (j := 8) rfl x kk
  | ldReg x y => exact decodeWord_xys c (j := 9) rfl x y
  | orReg x y => exact decodeWord_xys c (j := 10) rfl x y
  | andReg x y => exact decodeWord_xys c (j := 11) rfl x y
  | xorReg x y => exact decodeWord_xys c (j := 12) rfl x y
  | addReg x y => exact decodeWord_xys c (j := 13) rfl x y
  | subReg x y => exact decodeWord_xys c (j := 14) rfl x y
  | shr x => exact decodeWord_xys c (j := 15) (build := fun x _ => .shr x) rfl x 0
  | subnReg x y => exact decodeWord_xys c (j := 16) rfl x y
  | shl x => exact decodeWord_xys c (j := 17) (build := fun x _ => .shl x) rfl x 0
  | sneReg x y => exact decodeWord_xys c (j := 18) rfl x y
  | ldI nnn => exact decodeWord_nnn c (j := 19) rfl nnn
  | jpV0 nnn => exact decodeWord_nnn c (j := 20) rfl nnn
  | rnd x kk => exact decodeWord_xkk c (j := 21) rfl x kk
  | drw x y n => exact decodeWord_drw c x y n (of_decide_eq_true hwf)
  | skp x => exact decodeWord_xop c (j := 23) rfl x
  | sknp x => exact decodeWord_xop c (j := 24) rfl x
  | ldVxDt x => exact decodeWord_xop c (j := 25) rfl x
  | ldVxK x => exact decodeWord_xop c (j := 26) rfl x
  | ldDtVx x => exact decodeWord_xop c (j := 27) rfl x
  | ldStVx x => exact decodeWord_xop c (j := 28) rfl x
  | addI x => exact decodeWord_xop c (j := 29) rfl x
  | ldF x => exact decodeWord_xop c (j := 30) rfl x
  | ldB x => exact decodeWord_xop c (j := 31) rfl x
  | stRegs x => exact decodeWord_xop c (j := 32) rfl x
  | ldRegs x => exact decodeWord_xop c (j := 33) rfl x

/-- Settles O1: each recognised word is the encoding of its instruction, and the other two select no row. -/
theorem documentedWordsDecode : Obligations.DocumentedWordsDecode := by
  intro c
  have hdec : ∀ i, WellFormed c i = true → decodeWord c (encode i) = .instr i := decodeInvertsEncode c
  exact ⟨hdec .cls rfl, hdec .ret rfl, hdec (.jp 0x234) rfl, hdec (.jpV0 0x123) rfl,
    hdec (.ldImm 3 0xAB) rfl, hdec (.subnReg 1 2) rfl,
    decodeWord_xys c (j := 15) (k := 8) (op := 6) (build := fun x _ => .shr x) rfl 0xA 0xB,
    hdec (.drw 1 2 15) rfl, hdec (.sknp 5) rfl, hdec (.ldRegs 1) rfl,
    (decodeWord_unrecognized_iff c _).mpr ⟨by simp, by decide⟩,
    (decodeWord_unrecognized_iff c _).mpr ⟨by simp, by decide⟩⟩

/-! ### Encoding a decoded word -/

/-- What O3 says of the words that select row `r`. -/
def EncodesBack (r : OpRow) : Prop :=
  ∀ (c : Config) (w : Word), r.selects w = true →
    WellFormed c (r.build (describe w)) = true ∧
      (encode (r.build (describe w)) = w ∨
        (∃ x, r.build (describe w) = .shr x ∨ r.build (describe w) = .shl x) ∧
          encode (r.build (describe w)) = w &&& 0xFF0F)

theorem encodesBack_nnn (k : BitVec 4) (build : Addr → Instr)
    (hwf : ∀ c nnn, WellFormed c (build nnn) = true) (henc : ∀ nnn, encode (build nnn) = k ++ nnn) :
    EncodesBack ⟨k ++ 0#12, 0xF000, fun d => build d.nnn⟩ := fun c w hs =>
  ⟨hwf c _, .inl ((henc _).trans ((selects_nnn k _ w).mp hs).symm)⟩

theorem encodesBack_xkk (k : BitVec 4) (build : Reg → Byte → Instr)
    (hwf : ∀ c x kk, WellFormed c (build x kk) = true)
    (henc : ∀ x kk, encode (build x kk) = k ++ x ++ kk) :
    EncodesBack ⟨k ++ 0#12, 0xF000, fun d => build d.x d.kk⟩ := fun c w hs =>
  ⟨hwf c _ _, .inl ((henc _ _).trans ((selects_xkk k _ w).mp hs).symm)⟩

theorem encodesBack_xys (k op : BitVec 4) (build : Reg → Reg → Instr)
    (hwf : ∀ c x y, WellFormed c (build x y) = true)
    (henc : ∀ x y, encode (build x y) = k ++ x ++ y ++ op) :
    EncodesBack ⟨k ++ 0#4 ++ 0#4 ++ op, 0xF00F, fun d => build d.x d.y⟩ := fun c w hs =>
  ⟨hwf c _ _, .inl ((henc _ _).trans ((selects_xys k op _ w).mp hs).symm)⟩

theorem encodesBack_xop (k : BitVec 4) (op : Byte) (build : Reg → Instr)
    (hwf : ∀ c x, WellFormed c (build x) = true) (henc : ∀ x, encode (build x) = k ++ x ++ op) :
    EncodesBack ⟨k ++ 0#4 ++ op, 0xF0FF, fun d => build d.x⟩ := fun c w hs =>
  ⟨hwf c _, .inl ((henc _).trans ((selects_xop k op _ w).mp hs).symm)⟩

/-- A word of one row alone is its own encoding. -/
theorem encodesBack_fixed (i : Instr) (hwf : ∀ c, WellFormed c i = true) :
    EncodesBack ⟨encode i, 0xFFFF, fun _ => i⟩ := by
  intro c w hs
  have hw : w &&& 0xFFFF = encode i := by simpa only [OpRow.selects, beq_iff_eq] using hs
  exact ⟨hwf c, .inl (hw.symm.trans (BitVec.and_allOnes (x := w)))⟩

/-- A shift is encoded with its ignored y as 0 (R88; notes/assumptions/13.md). -/
theorem encodesBack_shift (op : BitVec 4) (build : Reg → Instr)
    (hshift : ∀ x, build x = .shr x ∨ build x = .shl x) (hwf : ∀ c x, WellFormed c (build x) = true)
    (henc : ∀ x, encode (build x) = 0x8#4 ++ x ++ 0x0#4 ++ op) :
    EncodesBack ⟨0x8#4 ++ 0#4 ++ 0#4 ++ op, 0xF00F, fun d => build d.x⟩ := by
  intro c w hs
  refine ⟨hwf c _, .inr ⟨⟨_, hshift _⟩, (henc _).trans ?_⟩⟩
  conv_rhs => rw [(selects_xys 0x8 op _ w).mp hs]
  simp [nibbles_xyn, nibbles_and, and_mask_nibble]

/-- DRW's row count is the nibble n, so it is below 16. -/
theorem encodesBack_drw : EncodesBack ⟨0xD000, 0xF000, fun d => .drw d.x d.y d.n.toNat⟩ := by
  intro c w hs
  refine ⟨decide_eq_true (describe w).n.isLt, .inl ?_⟩
  rw [← nibbles_extract w] at hs ⊢
  generalize w.extractLsb' 12 4 = a, w.extractLsb' 8 4 = x, w.extractLsb' 4 4 = y,
    w.extractLsb' 0 4 = n at hs ⊢
  have ha : a = 0xD#4 := by simpa [selects_nibbles, and_mask_nibble] using hs
  simp [describe_nibbles, encode, nibbles_xyn, ha]

theorem encodesBack_rowsLow : ∀ r ∈ opRowsLow, EncodesBack r := by
  simp only [opRowsLow, List.forall_mem_cons]
  exact ⟨encodesBack_fixed .cls fun _ => rfl, encodesBack_fixed .ret fun _ => rfl,
    encodesBack_nnn 1 .jp (fun _ _ => rfl) fun _ => rfl,
    encodesBack_nnn 2 .call (fun _ _ => rfl) fun _ => rfl,
    encodesBack_xkk 3 .seImm (fun _ _ _ => rfl) fun _ _ => rfl,
    encodesBack_xkk 4 .sneImm (fun _ _ _ => rfl) fun _ _ => rfl,
    encodesBack_xys 5 0 .seReg (fun _ _ _ => rfl) fun _ _ => rfl,
    encodesBack_xkk 6 .ldImm (fun _ _ _ => rfl) fun _ _ => rfl,
    encodesBack_xkk 7 .addImm (fun _ _ _ => rfl) fun _ _ => rfl, by simp⟩

theorem encodesBack_rowsAlu : ∀ r ∈ opRowsAlu, EncodesBack r := by
  simp only [opRowsAlu, List.forall_mem_cons]
  exact ⟨encodesBack_xys 8 0 .ldReg (fun _ _ _ => rfl) fun _ _ => rfl,
    encodesBack_xys 8 1 .orReg (fun _ _ _ => rfl) fun _ _ => rfl,
    encodesBack_xys 8 2 .andReg (fun _ _ _ => rfl) fun _ _ => rfl,
    encodesBack_xys 8 3 .xorReg (fun _ _ _ => rfl) fun _ _ => rfl,
    encodesBack_xys 8 4 .addReg (fun _ _ _ => rfl) fun _ _ => rfl,
    encodesBack_xys 8 5 .subReg (fun _ _ _ => rfl) fun _ _ => rfl,
    encodesBack_shift 6 .shr (fun _ => .inl rfl) (fun _ _ => rfl) fun _ => rfl,
    encodesBack_xys 8 7 .subnReg (fun _ _ _ => rfl) fun _ _ => rfl,
    encodesBack_shift 0xE .shl (fun _ => .inr rfl) (fun _ _ => rfl) fun _ => rfl,
    encodesBack_xys 9 0 .sneReg (fun _ _ _ => rfl) fun _ _ => rfl, by simp⟩

theorem encodesBack_rowsHigh : ∀ r ∈ opRowsHigh, EncodesBack r := by
  simp only [opRowsHigh, List.forall_mem_cons]
  exact ⟨encodesBack_nnn 0xA .ldI (fun _ _ => rfl) fun _ => rfl,
    encodesBack_nnn 0xB .jpV0 (fun _ _ => rfl) fun _ => rfl,
    encodesBack_xkk 0xC .rnd (fun _ _ _ => rfl) fun _ _ => rfl, encodesBack_drw,
    encodesBack_xop 0xE 0x9E .skp (fun _ _ => rfl) fun _ => rfl,
    encodesBack_xop 0xE 0xA1 .sknp (fun _ _ => rfl) fun _ => rfl,
    encodesBack_xop 0xF 0x07 .ldVxDt (fun _ _ => rfl) fun _ => rfl,
    encodesBack_xop 0xF 0x0A .ldVxK (fun _ _ => rfl) fun _ => rfl,
    encodesBack_xop 0xF 0x15 .ldDtVx (fun _ _ => rfl) fun _ => rfl,
    encodesBack_xop 0xF 0x18 .ldStVx (fun _ _ => rfl) fun _ => rfl,
    encodesBack_xop 0xF 0x1E .addI (fun _ _ => rfl) fun _ => rfl,
    encodesBack_xop 0xF 0x29 .ldF (fun _ _ => rfl) fun _ => rfl,
    encodesBack_xop 0xF 0x33 .ldB (fun _ _ => rfl) fun _ => rfl,
    encodesBack_xop 0xF 0x55 .stRegs (fun _ _ => rfl) fun _ => rfl,
    encodesBack_xop 0xF 0x65 .ldRegs (fun _ _ => rfl) fun _ => rfl, by simp⟩

theorem encodesBack_of_mem {r : OpRow} (hr : r ∈ opcodeMap) : EncodesBack r := by
  rw [opcodeMap, List.mem_append, List.mem_append] at hr
  obtain (h | h) | h := hr
  · exact encodesBack_rowsLow r h
  · exact encodesBack_rowsAlu r h
  · exact encodesBack_rowsHigh r h

/-- Settles O3: the HALT word is HALT's encoding, and a word that selects a row encodes back by its format. -/
theorem decodedInstructionEncodesBack : Obligations.DecodedInstructionEncodesBack := by
  intro c w i h
  obtain ⟨hw, hz, rfl⟩ | ⟨r, hr, hs, rfl⟩ := decodeWord_instr_cases h
  · exact ⟨hz, .inl hw.symm⟩
  · exact encodesBack_of_mem hr c w hs


/-! ### UNRECOGNIZED words -/

/-- A word of four nibbles is compared with any word nibble by nibble. -/
theorem nibbles_eq_iff (a x y n : BitVec 4) (k : Word) :
    nibbles a x y n = k ↔ a = k.extractLsb' 12 4 ∧ x = k.extractLsb' 8 4 ∧ y = k.extractLsb' 4 4 ∧
      n = k.extractLsb' 0 4 := by
  rw [← nibbles_inj, nibbles_extract]

/-- The words below 0x1000 are those of class 0. -/
theorem nibbles_lt_iff (a x y n : BitVec 4) : nibbles a x y n < 0x1000 ↔ a = 0 := by
  have hclass : a.toNat = (nibbles a x y n).toNat / 4096 := by
    have hlt := (nibbles a x y n).isLt
    conv_lhs => rw [← extract_c a x y n]
    rw [BitVec.extractLsb'_toNat, Nat.shiftRight_eq_div_pow]
    omega
  rw [BitVec.lt_def, ← BitVec.toNat_inj, hclass]
  show _ < 4096 ↔ _ = 0
  omega

theorem nibble_cases (a : BitVec 4) :
    a = 0 ∨ a = 1 ∨ a = 2 ∨ a = 3 ∨ a = 4 ∨ a = 5 ∨ a = 6 ∨ a = 7 ∨ a = 8 ∨ a = 9 ∨ a = 10 ∨
      a = 11 ∨ a = 12 ∨ a = 13 ∨ a = 14 ∨ a = 15 := by
  revert a
  decide

/-- The words of four nibbles that select no row of classes 0 to 7. -/
theorem selects_no_low_row (a x y n : BitVec 4) :
    (∀ r ∈ opRowsLow, r.selects (nibbles a x y n) = false) ↔
      ¬(a = 0 ∧ x = 0 ∧ y = 0xE ∧ n = 0) ∧ ¬(a = 0 ∧ x = 0 ∧ y = 0xE ∧ n = 0xE) ∧ a ≠ 1 ∧ a ≠ 2 ∧ a ≠ 3 ∧
        a ≠ 4 ∧ ¬(a = 5 ∧ n = 0) ∧ a ≠ 6 ∧ a ≠ 7 := by
  simp [opRowsLow, selects_nibbles, and_mask_nibble]

/-- The words of four nibbles that select no row of classes 8 and 9. -/
theorem selects_no_alu_row (a x y n : BitVec 4) :
    (∀ r ∈ opRowsAlu, r.selects (nibbles a x y n) = false) ↔
      (a = 8 → n = 8 ∨ n = 9 ∨ n = 0xA ∨ n = 0xB ∨ n = 0xC ∨ n = 0xD ∨ n = 0xF) ∧ (a = 9 → n ≠ 0) := by
  have hlisted : (n ≠ 0 ∧ n ≠ 1 ∧ n ≠ 2 ∧ n ≠ 3 ∧ n ≠ 4 ∧ n ≠ 5 ∧ n ≠ 6 ∧ n ≠ 7 ∧ n ≠ 14) ↔
      (n = 8 ∨ n = 9 ∨ n = 0xA ∨ n = 0xB ∨ n = 0xC ∨ n = 0xD ∨ n = 0xF) := by
    clear a x y
    revert n
    decide
  rw [← hlisted]
  by_cases ha : a = 8#4
  · simp [opRowsAlu, selects_nibbles, and_mask_nibble, ha]
  · simp [opRowsAlu, selects_nibbles, and_mask_nibble, ha]

/-- The words of four nibbles that select no row of classes A to F. -/
theorem selects_no_high_row (a x y n : BitVec 4) :
    (∀ r ∈ opRowsHigh, r.selects (nibbles a x y n) = false) ↔
      a ≠ 0xA ∧ a ≠ 0xB ∧ a ≠ 0xC ∧ a ≠ 0xD ∧
        (a = 0xE → ¬(y = 9 ∧ n = 0xE) ∧ ¬(y = 0xA ∧ n = 1)) ∧
        (a = 0xF → ¬(y = 0 ∧ n = 7) ∧ ¬(y = 0 ∧ n = 0xA) ∧ ¬(y = 1 ∧ n = 5) ∧ ¬(y = 1 ∧ n = 8) ∧
          ¬(y = 1 ∧ n = 0xE) ∧ ¬(y = 2 ∧ n = 9) ∧ ¬(y = 3 ∧ n = 3) ∧ ¬(y = 5 ∧ n = 5) ∧
          ¬(y = 6 ∧ n = 5)) := by
  simp only [opRowsHigh, List.forall_mem_cons]
  simp [selects_nibbles, and_mask_nibble, forall_and, and_assoc]

/-- Settles O4: over the four nibbles of the word, class by class. -/
theorem unrecognizedWordsAreThoseListed : Obligations.UnrecognizedWordsAreThoseListed := by
  intro c w
  rw [decodeWord_unrecognized_iff, ← nibbles_extract w]
  generalize w.extractLsb' 12 4 = a, w.extractLsb' 8 4 = x, w.extractLsb' 4 4 = y, w.extractLsb' 0 4 = n
  rw [opcodeMap, List.forall_mem_append, List.forall_mem_append, selects_no_low_row, selects_no_alu_row,
    selects_no_high_row]
  simp only [nibbles_and, nibbles_lt_iff, nibbles_eq_iff, List.mem_cons, List.not_mem_nil, or_false, ne_eq]
  obtain rfl | rfl | rfl | rfl | rfl | rfl | rfl | rfl | rfl | rfl | rfl | rfl | rfl | rfl | rfl | rfl :=
    nibble_cases a
  case inl => simp [and_mask_nibble]; tauto
  all_goals simp [and_mask_nibble]

end Sys2Proof.Proofs
end

section
/-! PROOF. What an instruction can do. `Effect s i t` lists the next states that `exec i s` can answer, by the
operation that makes them; `exec_effect` ties it to `exec`. The rules over all instructions follow: what each
keeps, which can stop the engine, and the changes of the invariant's parts. -/

namespace Sys2Proof.Proofs

open Sys2Proof.Machine Sys2Proof.Laws

/-! ### The effect of an instruction -/

/-- Which instruction raises which fatal condition, with the recorded address (60_exceptions.md R262 to
R264). -/
inductive FatalCause (s : State) : Instr → FatalKind → Option Nat → Prop
  | underflow : FatalCause s .ret .stackUnderflow none
  | overflow (nnn : Addr) : FatalCause s (.call nnn) .stackOverflow none
  | access {i : Instr}
      (hi : (∃ x y n, i = .drw x y n) ∨ ∃ x, i = .ldB x ∨ i = .stRegs x ∨ i = .ldRegs x) :
      FatalCause s i .dataBounds (some (max s.i.toNat s.cfg.memSize))

/-- The instructions that write one register Vx and no flag. -/
def WritesOne (i : Instr) (x : Reg) : Prop :=
  (∃ y, i = .ldReg x y ∨ i = .orReg x y ∨ i = .andReg x y ∨ i = .xorReg x y) ∨
    (∃ kk, i = .ldImm x kk ∨ i = .addImm x kk ∨ i = .rnd x kk) ∨ i = .ldVxDt x

/-- The instructions that write Vx and then a flag (42_register_alu.md R163). -/
def WritesFlag (i : Instr) : Prop :=
  (∃ x y, i = .addReg x y ∨ i = .subReg x y ∨ i = .subnReg x y) ∨ ∃ x, i = .shr x ∨ i = .shl x

/-- What instruction `i` can make of state `s`. -/
inductive Effect (s : State) : Instr → State → Prop
  | fatal {i : Instr} {kind : FatalKind} {addr : Option Nat} (cause : FatalCause s i kind addr) :
      Effect s i (s.fatal kind (some (encode i)) addr)
  | halt : Effect s .halt (s.stop .halt)
  | ret (hsp : 0 < s.sp) :
      Effect s .ret { s with sp := s.sp - 1, pc := s.stack.getD (s.sp - 1) 0 }
  | call (nnn : Addr) (hsp : s.sp < s.cfg.stackDepth) :
      Effect s (.call nnn)
        { s with stack := s.stack.set s.sp (s.pc + 2), sp := s.sp + 1, pc := nnn.toWord.toPc }
  | jump {i : Instr} {target : Pc} (htarget : target.toNat ≤ 0x10FE) : Effect s i (s.jump target)
  | skip {i : Instr} (cond : Bool) : Effect s i (s.skipIf cond)
  | setReg {i : Instr} {x : Reg} (hi : WritesOne i x) (b : Byte) : Effect s i (s.setReg x b).next
  | setRegFlag {i : Instr} (hi : WritesFlag i) (x : Reg) (b : Byte) (f : Bool) :
      Effect s i (s.setRegFlag x b f).next
  | index {i : Instr} (hi : (∃ nnn, i = .ldI nnn) ∨ ∃ x, i = .addI x ∨ i = .ldF x) (a : Word) :
      Effect s i { s with i := a : State }.next
  | delayTimer (x : Reg) : Effect s (.ldDtVx x) { s with dt := s.reg x : State }.next
  | soundTimer (x : Reg) : Effect s (.ldStVx x) { s with st := s.reg x : State }.next
  | keyWait (x : Reg) : Effect s (.ldVxK x) { s with mode := .awaitingKey, pendingReg := x }
  | clear : Effect s .cls { s with fb := [] : State }.next
  | draw (x y : Reg) (n : Nat) :
      Effect s (.drw x y n) ({ s with fb := (s.drawn x y n).fb }.setReg 15
        (flagByte (s.drawn x y n).collision)).next
  | store {i : Instr} (hi : ∃ x, i = .ldB x ∨ i = .stRegs x) {bs : List Byte}
      (hin : s.i.toNat + bs.length ≤ s.cfg.memSize) : Effect s i (s.putBytes s.i.toNat bs).next
  | load (x : Reg) : Effect s (.ldRegs x) (s.loadRegs s.i.toNat (x.toNat + 1)).next

/-- JP V0 goes to the unbounded sum, at most 0x10FE (41_control_flow.md R137). -/
theorem toNat_indexed_target (nnn : Addr) (b : Byte) :
    (nnn.toWord.toPc + b.setWidth 17).toNat = nnn.toNat + b.toNat := by
  rw [BitVec.toNat_add, toNat_toPc_toWord, BitVec.toNat_setWidth]
  omega

@[simp] theorem length_decimalDigits (b : Byte) : (decimalDigits b).length = 3 := rfl

/-- Every next state of `exec` is an effect of its instruction. -/
theorem exec_effect {i : Instr} {s t : State} (h : exec i s = .next t) : Effect s i t := by
  cases i with
  | halt => obtain rfl := Host.Outcome.next.inj h; exact .halt
  | cls => obtain rfl := Host.Outcome.next.inj h; exact .clear
  | ret =>
    obtain ⟨-, rfl⟩ | ⟨hsp, rfl⟩ := State.exec_ret_cases s t h
    · exact .fatal .underflow
    · exact .ret hsp
  | call nnn =>
    obtain ⟨-, rfl⟩ | ⟨hsp, rfl⟩ := State.exec_call_cases s t nnn h
    · exact .fatal (.overflow nnn)
    · exact .call nnn hsp
  | jp nnn =>
    obtain rfl := Host.Outcome.next.inj h
    exact .jump (by rw [toNat_toPc_toWord]; omega)
  | jpV0 nnn =>
    obtain rfl := Host.Outcome.next.inj h
    exact .jump (by rw [toNat_indexed_target]; omega)
  | seImm | sneImm | seReg | sneReg | skp | sknp =>
    obtain rfl := Host.Outcome.next.inj h
    exact .skip _
  | ldImm | addImm | rnd | ldReg | orReg | andReg | xorReg | ldVxDt =>
    obtain rfl := Host.Outcome.next.inj h
    exact .setReg (by simp [WritesOne]) _
  | addReg | subReg | subnReg | shr | shl =>
    obtain rfl := Host.Outcome.next.inj h
    exact .setRegFlag (by simp [WritesFlag]) _ _ _
  | ldI | addI | ldF =>
    obtain rfl := Host.Outcome.next.inj h
    exact .index (by simp) _
  | ldDtVx x => obtain rfl := Host.Outcome.next.inj h; exact .delayTimer x
  | ldStVx x => obtain rfl := Host.Outcome.next.inj h; exact .soundTimer x
  | ldVxK x => obtain rfl := Host.Outcome.next.inj h; exact .keyWait x
  | drw x y n =>
    obtain rfl | ⟨-, rfl⟩ := State.exec_drw_cases s t x y n h
    · exact .fatal (.access (by simp))
    · exact .draw x y n
  | ldB x =>
    obtain rfl | ⟨hin, rfl⟩ := State.exec_ldB_cases s t x h
    · exact .fatal (.access (by simp))
    · exact .store (by simp) (by simpa using hin)
  | stRegs x =>
    obtain rfl | ⟨hin, rfl⟩ := State.exec_stRegs_cases s t x h
    · exact .fatal (.access (by simp))
    · exact .store (by simp) (by simpa using hin)
  | ldRegs x =>
    obtain rfl | ⟨-, rfl⟩ := State.exec_ldRegs_cases s t x h
    · exact .fatal (.access (by simp))
    · exact .load x

/-! ### What every effect keeps -/

section
variable {s t : State} {i : Instr} (h : Effect s i t)
include h

theorem effect_keeps_cfg : t.cfg = s.cfg := by
  cases h <;> simp

theorem effect_keeps_inputs : t.keys = s.keys ∧ t.prevKeys = s.prevKeys ∧ t.inputs = s.inputs := by
  cases h <;> simp

theorem effect_index (hne : t.i ≠ s.i) : (∃ nnn, i = .ldI nnn) ∨ ∃ x, i = .addI x ∨ i = .ldF x := by
  cases h with
  | index hi => exact hi
  | _ => exact absurd (by simp) hne

theorem effect_callStack (hne : t.sp ≠ s.sp ∨ t.stack ≠ s.stack) : i = .ret ∨ ∃ nnn, i = .call nnn := by
  cases h with
  | ret => exact .inl rfl
  | call nnn => exact .inr ⟨nnn, rfl⟩
  | _ => simp at hne

theorem effect_delayTimer (hne : t.dt ≠ s.dt) : ∃ x, i = .ldDtVx x := by
  cases h with
  | delayTimer x => exact ⟨x, rfl⟩
  | _ => exact absurd (by simp) hne

theorem effect_soundTimer (hne : t.st ≠ s.st) : ∃ x, i = .ldStVx x := by
  cases h with
  | soundTimer x => exact ⟨x, rfl⟩
  | _ => exact absurd (by simp) hne

theorem effect_memory (hne : t.mem ≠ s.mem) : ∃ x, i = .ldB x ∨ i = .stRegs x := by
  cases h with
  | store hi => exact hi
  | _ => exact absurd (by simp) hne

theorem effect_framebuffer (hne : t.fb ≠ s.fb) : i = .cls ∨ ∃ x y n, i = .drw x y n := by
  cases h with
  | clear => exact .inl rfl
  | draw x y n => exact .inr ⟨x, y, n, rfl⟩
  | _ => exact absurd (by simp) hne

theorem effect_pendingReg (hne : t.pendingReg ≠ s.pendingReg) : ∃ x, i = .ldVxK x := by
  cases h with
  | keyWait x => exact ⟨x, rfl⟩
  | _ => exact absurd (by simp) hne

/-- An instruction that stops the engine is HALT, or gives the reason of its one check (R269). -/
theorem effect_stopReason (hne : t.stopReason ≠ s.stopReason) :
    t.mode = .stopped ∧ (i = .halt ∧ t.stopReason = some .halt ∨
      ∃ kind addr, FatalCause s i kind addr ∧ t.stopReason = some (.fatal kind)) := by
  cases h with
  | halt => exact ⟨rfl, .inl ⟨rfl, rfl⟩⟩
  | fatal cause => exact ⟨rfl, .inr ⟨_, _, cause, rfl⟩⟩
  | _ => exact absurd (by simp) hne

/-- Mode changes only by a key wait, HALT or a fatal condition. -/
theorem effect_mode (hne : t.mode ≠ s.mode) :
    t.mode = .awaitingKey ∧ (∃ x, i = .ldVxK x) ∨
      t.mode = .stopped ∧ (i = .halt ∨ ∃ kind addr, FatalCause s i kind addr) := by
  cases h with
  | keyWait x => exact .inl ⟨rfl, x, rfl⟩
  | halt => exact .inr ⟨rfl, .inl rfl⟩
  | fatal cause => exact .inr ⟨rfl, .inr ⟨_, _, cause⟩⟩
  | _ => exact absurd (by simp) hne

end

/-! ### Rules over all instructions -/

/-- Settles O57: each part by the lemma about it. -/
theorem onlyTheListedInstructionsChangeState : Obligations.OnlyTheListedInstructionsChangeState := by
  intro i s t h
  have he := exec_effect h
  have hcfg := effect_keeps_cfg he
  refine ⟨effect_index he, effect_callStack he, effect_delayTimer he, effect_soundTimer he, ?_, ?_,
    effect_pendingReg he, ?_, ?_, hcfg, effect_keeps_inputs he⟩
  · rintro ⟨a, ha⟩
    exact effect_memory he fun hmem => ha (State.byte_congr _ _ hcfg hmem a)
  · rintro ⟨x, y, hxy⟩
    exact effect_framebuffer he fun hfb => hxy (State.pixel_congr _ _ hfb x y)
  · intro hne
    obtain hwait | ⟨hstop, rfl | ⟨kind, addr, cause⟩⟩ := effect_mode he hne
    · exact .inl hwait
    · exact .inr ⟨hstop, .inl rfl⟩
    · refine .inr ⟨hstop, ?_⟩
      cases cause with
      | underflow => exact .inr (.inl rfl)
      | overflow nnn => exact .inr (.inr (.inl ⟨nnn, rfl⟩))
      | access hi => exact .inr (.inr (.inr hi))
  · intro hne
    obtain ⟨hstop, hhalt | ⟨kind, addr, cause, hreason⟩⟩ := effect_stopReason he hne
    · exact ⟨hstop, .inl hhalt⟩
    · refine ⟨hstop, .inr ?_⟩
      cases cause with
      | underflow => exact .inl ⟨rfl, hreason⟩
      | overflow nnn => exact .inr (.inl ⟨⟨nnn, rfl⟩, hreason⟩)
      | access hi => exact .inr (.inr ⟨hi, hreason⟩)

/-- Settles O58: registers change by one register write, a flag write, a draw or a load. -/
theorem vfChangesOnlyAsFlagOrDestination : Obligations.VfChangesOnlyAsFlagOrDestination := by
  intro i s t h hne
  cases exec_effect h with
  | @setReg _ x hi b =>
    have hx : x = 15 := by
      by_contra hx
      exact hne (reg_setReg_next_of_ne s x b 15 (Ne.symm hx))
    subst hx
    obtain hreg | himm | hdt := hi
    · exact .inr (.inr (.inr (.inl hreg)))
    · exact .inr (.inr (.inr (.inr (.inl himm))))
    · exact .inr (.inr (.inr (.inr (.inr (.inl hdt)))))
  | setRegFlag hi =>
    obtain harith | hshift := hi
    · exact .inl harith
    · exact .inr (.inl hshift)
  | draw x y n => exact .inr (.inr (.inl ⟨x, y, n, rfl⟩))
  | load x =>
    have hx : x = 15 := by
      by_contra hx
      have hlt : ¬(15 : Reg).toNat < x.toNat + 1 := by bv_omega
      exact hne (by rw [State.next_reg, State.reg_loadRegs s _ _ (by omega), if_neg hlt])
    exact .inr (.inr (.inr (.inr (.inr (.inr (by rw [hx]))))))
  | _ => exact absurd (State.reg_congr _ _ (by simp) 15) hne

end Sys2Proof.Proofs
end

section
/-! PROOF. Frames, once for all record updates: a state that takes some parts from another one leaves the
rest. -/

namespace Sys2Proof.Proofs

open Sys2Proof.Machine

/-- `s` with the listed parts taken from `t`; the configuration stays. -/
def takeParts (s t : State) (parts : List Part) : State where
  cfg := s.cfg
  v := if .regs ∈ parts then t.v else s.v
  i := if .index ∈ parts then t.i else s.i
  pc := if .pc ∈ parts then t.pc else s.pc
  stack := if .stack ∈ parts then t.stack else s.stack
  sp := if .stack ∈ parts then t.sp else s.sp
  dt := if .dt ∈ parts then t.dt else s.dt
  st := if .st ∈ parts then t.st else s.st
  mem := if .memory ∈ parts then t.mem else s.mem
  fb := if .pixels ∈ parts then t.fb else s.fb
  keys := if .keys ∈ parts then t.keys else s.keys
  prevKeys := if .prevKeys ∈ parts then t.prevKeys else s.prevKeys
  mode := if .mode ∈ parts then t.mode else s.mode
  pendingReg := if .pendingReg ∈ parts then t.pendingReg else s.pendingReg
  stopReason := if .stopReason ∈ parts then t.stopReason else s.stopReason
  redraw := if .redraw ∈ parts then t.redraw else s.redraw
  tone := if .tone ∈ parts then t.tone else s.tone
  diag := if .diag ∈ parts then t.diag else s.diag
  rndIn := if .rndIn ∈ parts then t.rndIn else s.rndIn
  inputs := if .inputs ∈ parts then t.inputs else s.inputs
  freeDrawn := if .freeDrawn ∈ parts then t.freeDrawn else s.freeDrawn

theorem frame_takeParts (s t : State) (parts : List Part) : Frame s (takeParts s t parts) parts := by
  intro p hp
  cases p with
  | cfg => rfl
  | regs => exact State.reg_congr _ _ (if_neg hp)
  | stack => exact ⟨if_neg hp, fun k => congrArg (fun l : List Pc => l[k]?) (if_neg hp)⟩
  | memory => exact State.byte_congr _ _ rfl (if_neg hp)
  | pixels => exact State.pixel_congr _ _ (if_neg hp)
  | _ => exact if_neg hp

/-- A state that differs from `s` in the listed parts alone leaves the others: `rfl` for a record update. -/
theorem frame_of_takeParts {s t : State} {parts : List Part} (h : t = takeParts s t parts) :
    Frame s t parts := by
  rw [h]
  exact frame_takeParts s t parts

end Sys2Proof.Proofs
end

section
/-! PROOF. Ticks and runs (40_engine_cycle.md section 1): every tick answers, what the tick's phases keep, the
outputs at its end, the cause of a diagnostic, and STOPPED as the last mode of a run. -/

namespace Sys2Proof.Proofs

open Sys2Proof.Machine Sys2Proof.Laws

/-! ### Every tick answers -/

theorem access_answers (s : State) (i : Instr) (len : Nat) (effect : State → State) :
    ∃ t, s.access i len effect = .next t := by
  unfold State.access
  split
  · exact ⟨_, rfl⟩
  · exact ⟨_, rfl⟩

/-- No instruction refuses or faults. -/
theorem exec_answers (i : Instr) (s : State) : ∃ t, exec i s = .next t := by
  cases i with
  | ret =>
    obtain hsp | hsp := Nat.eq_zero_or_pos s.sp
    · exact ⟨_, exec_ret_of_empty s hsp⟩
    · exact ⟨_, exec_ret_of_pos s hsp⟩
  | call nnn =>
    obtain hsp | hsp := Nat.lt_or_ge s.sp s.cfg.stackDepth
    · exact ⟨_, exec_call_of_room nnn s hsp⟩
    · exact ⟨_, exec_call_of_full nnn s hsp⟩
  | drw | ldB | stRegs | ldRegs =>
    simp only [exec, execDrw, execLdB, execStRegs, execLdRegs]
    exact access_answers s _ _ _
  | _ => exact ⟨_, rfl⟩

theorem runWord_answers (s : State) : ∃ t, s.runWord = .next t := by
  unfold State.runWord
  split
  · exact ⟨_, rfl⟩
  · split
    · exact exec_answers _ s
    · exact ⟨_, rfl⟩

/-- Settles O11, by Mode and the quit input. -/
theorem everyTickAnswersNext : Obligations.EveryTickAnswersNext := by
  intro s
  cases hm : s.mode with
  | stopped => exact ⟨s.stoppedTick, by rw [step, tick, hm]⟩
  | awaitingKey => cases hq : s.input.quit <;> simp [step, tick, hm, hq]
  | running =>
    cases hq : s.input.quit with
    | true => exact ⟨s.quitTick, by simp [step, tick, hm, hq]⟩
    | false =>
      obtain ⟨t, ht⟩ := runWord_answers s.begin
      exact ⟨t.finish, by rw [step_of_running s hm hq, ht, finishResult]⟩

/-! ### Runs -/

/-- A run of one step more begins with that step, on any machine. -/
theorem core_run_succ (M : Host.Core) {s u : M.State} (n : Nat) (h : M.step s = .next u) :
    M.run (n + 1) s = M.run n u := by
  rw [Host.Core.run, h]

/-- A run of one tick more begins with that tick. -/
theorem run_succ {s u : State} (n : Nat) (h : step s = .next u) :
    core.run (n + 1) s = core.run n u :=
  core_run_succ core n h

/-- What every tick keeps, every run keeps. -/
theorem run_keeps (P : State → Prop) (hstep : ∀ s t, P s → step s = .next t → P t) (n : Nat) (s t : State)
    (hs : P s) (hrun : core.run n s = .next t) : P t := by
  induction n generalizing s with
  | zero => exact Host.Outcome.next.inj hrun ▸ hs
  | succ n ih =>
    obtain ⟨u, hu⟩ := everyTickAnswersNext s
    rw [run_succ n hu] at hrun
    exact ih u (hstep s u hs hu) hrun

/-! ### The phases of a tick -/

/-- A tick of the key wait is the key-wait check after the timers, and the tone. -/
theorem awaitTick_eq (s : State) :
    s.awaitTick = { s.begin.awaitKey with tone := s.begin.awaitKey.toneNow } := rfl

theorem awaitKey_cfg (s : State) : s.awaitKey.cfg = s.cfg := by
  obtain ⟨-, h⟩ | ⟨k, -, h⟩ := s.awaitKey_cases <;> simp [h]

theorem awaitKey_diag (s : State) : s.awaitKey.diag = s.diag := by
  obtain ⟨-, h⟩ | ⟨k, -, h⟩ := s.awaitKey_cases <;> simp [h]

theorem awaitKey_redraw (s : State) : s.awaitKey.redraw = s.redraw := by
  obtain ⟨-, h⟩ | ⟨k, -, h⟩ := s.awaitKey_cases <;> simp [h]

theorem runWord_cfg {s t : State} (h : s.runWord = .next t) : t.cfg = s.cfg := by
  obtain ⟨-, rfl⟩ | ⟨w, i, -, -, hexec⟩ | ⟨w, -, -, rfl⟩ := State.runWord_cases s t h
  · exact State.fatal_cfg ..
  · exact effect_keeps_cfg (exec_effect hexec)
  · exact State.unrecognized_cfg s w

theorem step_keeps_cfg {s t : State} (h : step s = .next t) : t.cfg = s.cfg := by
  obtain ⟨-, rfl⟩ | ⟨-, -, rfl⟩ | ⟨-, -, rfl⟩ | ⟨-, -, u, hu, rfl⟩ := tick_cases s t h
  · rfl
  · rfl
  · exact (awaitKey_cfg s.begin).trans (State.begin_cfg s)
  · exact (runWord_cfg hu).trans (State.begin_cfg s)

/-- Settles O12: no tick changes it, so no run does. -/
theorem configurationIsFixedForARun : Obligations.ConfigurationIsFixedForARun := by
  intro n s t hrun
  exact run_keeps (fun u => u.cfg = s.cfg) (fun u v hu hstep => (step_keeps_cfg hstep).trans hu) n s t rfl
    hrun

/-! ### STOPPED -/

theorem step_of_stopped {s : State} (h : s.mode = .stopped) : step s = .next s.stoppedTick := by
  rw [step, tick, h]

/-- Any number of ticks in STOPPED is one tick in STOPPED. -/
theorem run_of_stopped (n : Nat) {s : State} (h : s.mode = .stopped) :
    core.run (n + 1) s = .next s.stoppedTick := by
  induction n generalizing s with
  | zero => exact run_succ 0 (step_of_stopped h)
  | succ n ih => exact (run_succ _ (step_of_stopped h)).trans (ih (s := s.stoppedTick) h)

/-- A tick in STOPPED changes the outputs redraw, tone and diag alone. -/
theorem frame_stoppedTick (s : State) : Frame s s.stoppedTick [.redraw, .tone, .diag] :=
  frame_of_takeParts rfl

/-- Settles O13: the run is one tick in STOPPED. -/
theorem stoppedIsFinal : Obligations.StoppedIsFinal := by
  intro n s h
  exact ⟨_, run_of_stopped n h, decide_eq_true h, rfl, rfl, rfl, rfl, frame_stoppedTick s⟩

/-! ### Outputs at the end of a tick -/

theorem toneNow_iff (s : State) : s.toneNow = true ↔ 0 < s.st.toNat ∧ s.mode ≠ .stopped := by
  rw [State.toneNow, Bool.and_eq_true, decide_eq_true_iff, decide_eq_true_iff, and_comm]

/-- Settles O18: each kind of tick drives the two outputs from its own end. -/
theorem tickEndsWithToneAndRedraw : Obligations.TickEndsWithToneAndRedraw := by
  intro s t h
  obtain ⟨hm, rfl⟩ | ⟨-, hq, rfl⟩ | ⟨hm, -, rfl⟩ | ⟨hm, hq, u, -, rfl⟩ := tick_cases s t h
  · simp [hm]
  · simp [hq]
  · have hredraw : s.awaitTick.redraw = false := (awaitKey_redraw s.begin).trans (State.begin_redraw s)
    exact ⟨toneNow_iff s.begin.awaitKey, by simp [hredraw, hm]⟩
  · exact ⟨toneNow_iff u, by simp [hm, hq]⟩

/-! ### Diagnostics -/

/-- An instruction drives a diagnostic only by its fatal condition. -/
theorem effect_diag {i : Instr} {s t : State} (h : Effect s i t) (hne : t.diag ≠ s.diag) :
    ∃ kind addr, FatalCause s i kind addr ∧ t = s.fatal kind (some (encode i)) addr := by
  cases h with
  | fatal cause => exact ⟨_, _, cause, rfl⟩
  | _ => exact absurd (by simp) hne

/-- The recorded word is the one that was decoded: no shift is fatal. -/
theorem encode_of_fatalCause {c : Config} {w : Word} {s : State} {i : Instr} {kind : FatalKind}
    {addr : Option Nat} (hdec : decodeWord c w = .instr i) (cause : FatalCause s i kind addr) :
    encode i = w := by
  obtain ⟨-, henc | ⟨⟨x, hshift⟩, -⟩⟩ := decodedInstructionEncodesBack c w i hdec
  · exact henc
  · obtain rfl | rfl := hshift
    · cases cause with
      | access hi => simp at hi
    · cases cause with
      | access hi => simp at hi

/-- The address is recorded for DATA_BOUNDS alone, and no instruction is UNRECOGNIZED (R260). -/
theorem fatalCause_addr {s : State} {i : Instr} {kind : FatalKind} {addr : Option Nat}
    (cause : FatalCause s i kind addr) :
    addr = (if kind = .dataBounds then some (max s.i.toNat s.cfg.memSize) else none) ∧
      kind ≠ .unrecognizedOpcode := by
  cases cause <;> simp

/-- Under LENIENT an UNRECOGNIZED word leaves Mode, under STRICT it stops the engine with its kind. -/
theorem unrecognized_cases (s : State) (w : Word) :
    (s.cfg.unknownOpcode = .strict ∧ s.unrecognized w = s.fatal .unrecognizedOpcode (some w) none) ∨
      (s.cfg.unknownOpcode = .lenient ∧ s.unrecognized w =
        { s with
          diag := some ⟨.unrecognizedOpcode, some w, some s.pc, none, none⟩
          pc := s.pc + 2 }) := by
  unfold State.unrecognized
  cases s.cfg.unknownOpcode with
  | strict => exact .inl ⟨rfl, rfl⟩
  | lenient => exact .inr ⟨rfl, rfl⟩

/-- What a diagnostic of fetch, decode and execute says, in the state it began in. -/
theorem runWord_diag {s t : State} {d : Diag} (h : s.runWord = .next t) (hnone : s.diag = none)
    (hrun : s.mode = .running) (hd : t.diag = some d) :
    d.pc = some s.pc ∧ d.word = s.fetch ∧
      d.addr = (if d.kind = .dataBounds then some (max s.i.toNat s.cfg.memSize) else none) ∧
      d.length = none ∧
      (d.kind = .unrecognizedOpcode → ∃ w, s.fetch = some w ∧ decodeWord s.cfg w = .unrecognized w) ∧
      (t.stopReason = some (.fatal d.kind) ∨
        (d.kind = .unrecognizedOpcode ∧ s.cfg.unknownOpcode = .lenient ∧ t.mode = .running)) := by
  obtain ⟨hf, rfl⟩ | ⟨w, i, hf, hdec, hexec⟩ | ⟨w, hf, hdec, rfl⟩ := State.runWord_cases s t h
  · obtain rfl := Option.some.inj hd
    simp [hf]
  · have hne : t.diag ≠ s.diag := by simp [hd, hnone]
    obtain ⟨kind, addr, cause, rfl⟩ := effect_diag (exec_effect hexec) hne
    obtain ⟨haddr, hkind⟩ := fatalCause_addr cause
    obtain rfl := Option.some.inj hd
    simp [hf, haddr, hkind, encode_of_fatalCause hdec cause]
  · obtain ⟨-, hu⟩ | ⟨hpol, hu⟩ := unrecognized_cases s w
    · rw [hu] at hd ⊢
      obtain rfl := Option.some.inj hd
      simp [hf, hdec]
    · rw [hu] at hd ⊢
      obtain rfl := Option.some.inj hd
      simp [hf, hdec, hpol, hrun]

/-- Settles O19: only a tick that fetches drives a diagnostic, and then as `runWord_diag` says. -/
theorem diagnosticsNameTheirCause : Obligations.DiagnosticsNameTheirCause := by
  intro s t d h hd
  obtain ⟨-, rfl⟩ | ⟨-, -, rfl⟩ | ⟨-, -, rfl⟩ | ⟨hm, -, u, hu, rfl⟩ := tick_cases s t h
  · cases hd
  · cases hd
  · have hnone : s.awaitTick.diag = none := (awaitKey_diag s.begin).trans (State.begin_diag s)
    cases hnone.symm.trans hd
  · have hrun := runWord_diag hu (State.begin_diag s) ((State.begin_mode s).trans hm) hd
    rw [State.begin_fetch, State.begin_pc, State.begin_i, State.begin_cfg] at hrun
    exact ⟨hm, hrun⟩

end Sys2Proof.Proofs
end

section
/-! PROOF. The invariant (10_state.md sections 2 to 5): its parts other than the outputs, what each phase of a
tick does to them, and that it holds at reset and is kept by every tick. -/

namespace Sys2Proof.Proofs

open Sys2Proof.Machine Sys2Proof.Laws

/-- The invariant without the outputs, which a tick drives only at its end. -/
structure Sound (s : State) : Prop where
  cfg : s.cfg.wf
  mem : Memory.wf s.cfg s.mem
  fb : Framebuffer.wf s.cfg s.fb
  stack : s.stackOk
  pc : s.pcOk
  mode : s.modeOk

theorem inv_iff (s : State) : s.Inv ↔ Sound s ∧ s.outputsOk :=
  ⟨fun ⟨hcfg, hmem, hfb, hstack, hpc, hmode, hout⟩ => ⟨⟨hcfg, hmem, hfb, hstack, hpc, hmode⟩, hout⟩,
    fun ⟨h, hout⟩ => ⟨h.cfg, h.mem, h.fb, h.stack, h.pc, h.mode, hout⟩⟩

/-- In RUNNING, PC has only its range to keep. -/
theorem pcOk_of_running {s : State} (hm : s.mode = .running)
    (hpc : s.pc.toNat ≤ max 0x10FE (s.cfg.memSize + 2)) : s.pcOk :=
  ⟨hpc, fun h => by simp [hm] at h⟩

/-- In STOPPED too. -/
theorem pcOk_of_stopped {s : State} (hm : s.mode = .stopped)
    (hpc : s.pc.toNat ≤ max 0x10FE (s.cfg.memSize + 2)) : s.pcOk :=
  ⟨hpc, fun h => by simp [hm] at h⟩

/-- An engine that is not STOPPED has no StopReason. -/
theorem modeOk_of_not_stopped {s : State} (hm : s.mode ≠ .stopped) (hr : s.stopReason = none) : s.modeOk := by
  simp [State.modeOk, hm, hr]

theorem Sound.stopReason_eq_none {s : State} (h : Sound s) (hm : s.mode ≠ .stopped) :
    s.stopReason = none := by
  simpa [State.modeOk, hm] using h.mode

/-- `t` has the configuration, Memory, Framebuffer and CallStack of `s`. -/
structure KeepsStores (s t : State) : Prop where
  cfg : t.cfg = s.cfg
  mem : t.mem = s.mem
  fb : t.fb = s.fb
  stack : t.stack = s.stack
  sp : t.sp = s.sp

theorem Sound.of_keepsStores {s t : State} (h : Sound s) (hkeep : KeepsStores s t) (hpc : t.pcOk)
    (hmode : t.modeOk) : Sound t where
  cfg := hkeep.cfg ▸ h.cfg
  mem := by rw [hkeep.cfg, hkeep.mem]; exact h.mem
  fb := by rw [hkeep.cfg, hkeep.fb]; exact h.fb
  stack := by rw [State.stackOk, hkeep.cfg, hkeep.stack, hkeep.sp]; exact h.stack
  pc := hpc
  mode := hmode

/-- A stop keeps soundness: it changes Mode and StopReason together. -/
theorem Sound.of_stop {s t : State} (h : Sound s) (hkeep : KeepsStores s t) (hpc : t.pc = s.pc)
    (hm : t.mode = .stopped) (hr : t.stopReason.isSome = true) : Sound t :=
  h.of_keepsStores hkeep (pcOk_of_stopped hm (by rw [hpc, hkeep.cfg]; exact h.pc.1)) (iff_of_true hm hr)

theorem sound_fatal {s : State} (h : Sound s) (kind : FatalKind) (word : Option Word) (addr : Option Nat) :
    Sound (s.fatal kind word addr) :=
  h.of_stop ⟨rfl, rfl, rfl, rfl, rfl⟩ rfl rfl rfl

/-! ### An instruction that was fetched -/

/-- A fetched PC moves by 2 or 4 without wrapping, to at most MEM_SIZE + 2 (R24). -/
theorem toNat_pc_add {s : State} (hcfg : s.cfg.wf) (hpc : s.pc.toNat + 2 ≤ s.cfg.memSize) :
    (s.pc + 2).toNat = s.pc.toNat + 2 ∧ (s.pc + 4).toNat = s.pc.toNat + 4 := by
  obtain ⟨-, hmax, -⟩ := hcfg
  constructor <;> bv_omega

section
variable {s t : State} {i : Instr} (h : Effect s i t)
include h

theorem effect_wf_mem (hwf : Memory.wf s.cfg s.mem) : Memory.wf t.cfg t.mem := by
  cases h with
  | store hi hin => exact (State.putBytes_cfg s _ _).symm ▸ State.wf_putBytes s _ _ hwf hin
  | load x =>
    rw [State.next_cfg, State.next_mem, State.loadRegs_cfg, State.loadRegs_mem]
    exact hwf
  | _ => exact hwf

theorem effect_wf_fb (hcfg : s.cfg.wf) (hwf : Framebuffer.wf s.cfg s.fb) : Framebuffer.wf t.cfg t.fb := by
  obtain ⟨-, -, -, -, -, hw, hh⟩ := hcfg
  cases h with
  | clear => exact ⟨.nil, by simp⟩
  | draw x y n => exact Framebuffer.wf_draw s.cfg hw hh s.fb _ _ _ hwf
  | store hi hin =>
    rw [State.next_cfg, State.next_fb, State.putBytes_cfg, State.putBytes_fb]
    exact hwf
  | load x =>
    rw [State.next_cfg, State.next_fb, State.loadRegs_cfg, State.loadRegs_fb]
    exact hwf
  | _ => exact hwf

/-- CALL pushes PC + 2 of a fetched word, which is at most MEM_SIZE; RET drops an entry. -/
theorem effect_stackOk (hcfg : s.cfg.wf) (hpc : s.pc.toNat + 2 ≤ s.cfg.memSize) (hok : s.stackOk) :
    t.stackOk := by
  have hok' := hok
  obtain ⟨hlen, hsp, hret⟩ := hok
  cases h with
  | ret hpos =>
    exact ⟨hlen, (Nat.sub_le ..).trans hsp, fun k hk => hret k (hk.trans_le (Nat.sub_le ..))⟩
  | call nnn hroom =>
    refine ⟨by simpa using hlen, hroom, fun k hk => ?_⟩
    have hk : k < s.sp + 1 := hk
    obtain rfl | hne := eq_or_ne s.sp k
    · have hpush := (toNat_pc_add hcfg hpc).1
      simp only [List.getD_eq_getElem?_getD, List.getElem?_set_self (hlen ▸ hroom), Option.getD_some]
      omega
    · simpa only [List.getD_eq_getElem?_getD, List.getElem?_set_ne hne] using hret k (by omega)
  | _ => simpa [State.stackOk] using hok'

/-- The range of PC after a fetched word: PC + 2, PC + 4, a return address or a jump target (R24). -/
theorem effect_pcOk (hcfg : s.cfg.wf) (hpc : s.pc.toNat + 2 ≤ s.cfg.memSize) (hstack : s.stackOk)
    (hm : s.mode = .running) : t.pcOk := by
  obtain ⟨hadd2, hadd4⟩ := toNat_pc_add hcfg hpc
  cases h with
  | fatal => exact pcOk_of_stopped rfl (by simp; omega)
  | halt => exact pcOk_of_stopped rfl (by simp; omega)
  | ret hpos =>
    have hentry := hstack.2.2 (s.sp - 1) (by omega)
    exact pcOk_of_running hm (by simp only; omega)
  | call nnn =>
    have htarget := toNat_toPc_toWord nnn
    exact pcOk_of_running hm (by simp only; omega)
  | jump htarget => exact pcOk_of_running hm (by simp; omega)
  | skip cond => exact pcOk_of_running hm (by cases cond <;> simp <;> omega)
  | keyWait x => exact ⟨by simp; omega, fun _ => hpc⟩
  | _ => exact pcOk_of_running (by simp [hm]) (by simp; omega)

theorem effect_modeOk (hm : s.mode = .running) (hr : s.stopReason = none) : t.modeOk := by
  cases h with
  | fatal => exact iff_of_true rfl rfl
  | halt => exact iff_of_true rfl rfl
  | keyWait x => exact modeOk_of_not_stopped (by simp) hr
  | _ => exact modeOk_of_not_stopped (by simp [hm]) (by simp [hr])

/-- A fetched instruction keeps soundness. -/
theorem effect_sound (hs : Sound s) (hm : s.mode = .running) (hpc : s.pc.toNat + 2 ≤ s.cfg.memSize) :
    Sound t where
  cfg := effect_keeps_cfg h ▸ hs.cfg
  mem := effect_wf_mem h hs.mem
  fb := effect_wf_fb h hs.cfg hs.fb
  stack := effect_stackOk h hs.cfg hpc hs.stack
  pc := effect_pcOk h hs.cfg hpc hs.stack hm
  mode := effect_modeOk h hm (hs.stopReason_eq_none (by simp [hm]))

end

/-! ### The phases of a tick -/

/-- A word was fetched only from inside Memory. -/
theorem fetch_bound {s : State} {w : Word} (h : s.fetch = some w) : s.pc.toNat + 2 ≤ s.cfg.memSize := by
  by_contra hout
  rw [State.fetch_outside s (by omega)] at h
  cases h

theorem begin_sound {s : State} (h : Sound s) : Sound s.begin :=
  h.of_keepsStores ⟨State.begin_cfg s, State.begin_mem s, State.begin_fb s, State.begin_stack s,
    State.begin_sp s⟩ (by simpa [State.pcOk] using h.pc) (by simpa [State.modeOk] using h.mode)

/-- An engine that goes on to the next word in RUNNING keeps soundness. -/
theorem Sound.of_moved {s t : State} (h : Sound s) (hs : s.mode ≠ .stopped)
    (hpc : s.pc.toNat + 2 ≤ s.cfg.memSize) (hkeep : KeepsStores s t) (hmove : t.pc = s.pc + 2)
    (hm : t.mode = .running) (hr : t.stopReason = s.stopReason) : Sound t :=
  h.of_keepsStores hkeep (pcOk_of_running hm (by rw [hmove, hkeep.cfg, (toNat_pc_add h.cfg hpc).1]; omega))
    (modeOk_of_not_stopped (by simp [hm]) (hr.trans (h.stopReason_eq_none hs)))

theorem runWord_sound {s t : State} (hs : Sound s) (hm : s.mode = .running) (h : s.runWord = .next t) :
    Sound t := by
  obtain ⟨-, rfl⟩ | ⟨w, i, hf, -, hexec⟩ | ⟨w, hf, -, rfl⟩ := State.runWord_cases s t h
  · exact sound_fatal hs ..
  · exact effect_sound (exec_effect hexec) hs hm (fetch_bound hf)
  · obtain ⟨-, hu⟩ | ⟨-, hu⟩ := unrecognized_cases s w
    · rw [hu]
      exact sound_fatal hs ..
    · rw [hu]
      exact hs.of_moved (by simp [hm]) (fetch_bound hf) ⟨rfl, rfl, rfl, rfl, rfl⟩ rfl hm rfl

theorem awaitKey_sound {s : State} (hs : Sound s) (hm : s.mode = .awaitingKey) : Sound s.awaitKey := by
  obtain ⟨-, hkey⟩ | ⟨k, -, hkey⟩ := s.awaitKey_cases
  · rw [hkey]
    exact hs
  · rw [hkey]
    exact hs.of_moved (by simp [hm]) (hs.pc.2 hm) ⟨rfl, rfl, rfl, rfl, rfl⟩ rfl rfl rfl

theorem tick_sound {s t : State} (hs : Sound s) (h : step s = .next t) : Sound t := by
  obtain ⟨-, rfl⟩ | ⟨-, -, rfl⟩ | ⟨hm, -, rfl⟩ | ⟨hm, -, u, hu, rfl⟩ := tick_cases s t h
  · exact ⟨hs.cfg, hs.mem, hs.fb, hs.stack, hs.pc, hs.mode⟩
  · exact hs.of_stop ⟨rfl, rfl, rfl, rfl, rfl⟩ rfl rfl rfl
  · have ht := awaitKey_sound (begin_sound hs) ((State.begin_mode s).trans hm)
    exact ⟨ht.cfg, ht.mem, ht.fb, ht.stack, ht.pc, ht.mode⟩
  · have ht := runWord_sound (begin_sound hs) ((State.begin_mode s).trans hm) hu
    exact ⟨ht.cfg, ht.mem, ht.fb, ht.stack, ht.pc, ht.mode⟩

/-- Settles O9: soundness is kept phase by phase, and every tick drives its outputs at its end. -/
theorem everyTickKeepsTheInvariant : Obligations.EveryTickKeepsTheInvariant := by
  intro s t hinv h
  obtain ⟨htone, hredraw⟩ := tickEndsWithToneAndRedraw s t h
  exact (inv_iff t).mpr ⟨tick_sound ((inv_iff s).mp hinv).1 h, htone, fun hr => (hredraw.mp hr).2.2⟩

/-- Settles O10: the invariant bounds PC by 0x10FE or MEM_SIZE + 2. -/
theorem programCounterFitsSixteenBits : Obligations.ProgramCounterFitsSixteenBits := by
  intro n s t hinv hsize hrun
  have hkeep : ∀ u v : State, u.Inv ∧ u.cfg = s.cfg → step u = .next v → v.Inv ∧ v.cfg = s.cfg :=
    fun u v hu hstep => ⟨everyTickKeepsTheInvariant u v hu.1 hstep, (step_keeps_cfg hstep).trans hu.2⟩
  obtain ⟨htinv, htcfg⟩ := run_keeps _ hkeep n s t ⟨hinv, rfl⟩ hrun
  have hpc := ((inv_iff t).mp htinv).1.pc.1
  rw [htcfg] at hpc
  omega

/-! ### Reset -/

theorem sound_cleared (c : Config) (hwf : c.wf) : Sound (State.cleared c) where
  cfg := hwf
  mem := Memory.wf_nil c
  fb := ⟨.nil, by simp [State.cleared]⟩
  stack := ⟨List.length_replicate .., Nat.zero_le _, fun k hk => absurd hk (Nat.not_lt_zero k)⟩
  pc := pcOk_of_running rfl (by simp [State.cleared]; omega)
  mode := modeOk_of_not_stopped (by simp [State.cleared]) rfl

theorem inv_loadError (c : Config) (hwf : c.wf) (length : Option Nat) : (State.loadError c length).Inv :=
  (inv_iff _).mpr ⟨(sound_cleared c hwf).of_stop ⟨rfl, rfl, rfl, rfl, rfl⟩ rfl rfl rfl,
    by simp [State.outputsOk, State.loadError, State.cleared]⟩

/-- An image that is too long is a load error (R291). -/
theorem resetWith_of_long {c : Config} {image : List Byte} (h : c.memSize - 0x200 < image.length) :
    State.resetWith c image = State.loadError c (some image.length) :=
  if_pos h

/-- An image that fits is copied to 0x200 on (R290). -/
theorem resetWith_of_fits {c : Config} {image : List Byte} (h : image.length ≤ c.memSize - 0x200) :
    State.resetWith c image = (State.cleared c).putBytes 0x200 image :=
  if_neg (Nat.not_lt.mpr h)

theorem sound_putBytes {s : State} (h : Sound s) {a : Nat} {bs : List Byte}
    (hin : a + bs.length ≤ s.cfg.memSize) : Sound (s.putBytes a bs) where
  cfg := by simpa using h.cfg
  mem := (State.putBytes_cfg s a bs).symm ▸ State.wf_putBytes s a bs h.mem hin
  fb := by simpa using h.fb
  stack := by simpa [State.stackOk] using h.stack
  pc := by simpa [State.pcOk] using h.pc
  mode := by simpa [State.modeOk] using h.mode

theorem inv_resetWith (c : Config) (hwf : c.wf) (image : List Byte) : (State.resetWith c image).Inv := by
  obtain hfits | hlong := le_or_gt image.length (c.memSize - 0x200)
  · have hin : 0x200 + image.length ≤ (State.cleared c).cfg.memSize := by
      have hbase : 0x200 < c.memSize := hwf.1
      show 0x200 + image.length ≤ c.memSize
      omega
    rw [resetWith_of_fits hfits]
    exact (inv_iff _).mpr ⟨sound_putBytes (sound_cleared c hwf) hin,
      by simp [State.outputsOk, State.cleared]⟩
  · rw [resetWith_of_long hlong]
    exact inv_loadError c hwf _

/-- Settles O8: the default machine is reset with the empty image. -/
theorem invariantHoldsAtReset : Obligations.InvariantHoldsAtReset := by
  refine ⟨?_, fun c image hwf => inv_resetWith c hwf image⟩
  rw [← State.resetWith_standard]
  exact inv_resetWith _ (by decide) _

/-- Memory right after a load error is the reset contents. -/
theorem byte_loadError (c : Config) (length : Option Nat) (a : Nat) :
    (State.loadError c length).byte a = resetByte c a := rfl

/-- Settles O6: reset is the cleared state with the image's bytes stored. -/
theorem resetLoadsImageAndClearsState : Obligations.ResetLoadsImageAndClearsState := by
  intro c image hwf hfits
  rw [resetWith_of_fits hfits]
  have hreg : ∀ r, (State.cleared c).reg r = 0 := by
    intro r
    simp [State.reg, State.cleared]
  have hpixel := pixel_of_fb_nil (State.cleared c) rfl
  refine ⟨State.putBytes_cfg .., State.putBytes_pc .., State.putBytes_sp .., State.putBytes_dt ..,
    State.putBytes_st .., fun r => (State.putBytes_reg ..).trans (hreg r), State.putBytes_i .., ?_, ?_,
    fun x y => (State.putBytes_pixel ..).trans (hpixel x y), State.putBytes_keys ..,
    State.putBytes_prevKeys .., State.putBytes_mode .., State.putBytes_pendingReg ..,
    State.putBytes_stopReason .., State.putBytes_tone .., fun a => ?_⟩
  · rw [State.putBytes_stack]
    exact List.length_replicate ..
  · rw [State.putBytes_stack]
    exact fun e he => List.eq_of_mem_replicate he
  · rw [State.byte_putBytes]
    rfl

/-- A new diagnostic changes nothing else. -/
theorem frame_diag (s : State) (diag : Option Diag) : Frame s { s with diag := diag } [.diag] :=
  frame_of_takeParts rfl

/-- After a load error redraw and tone are off already, so a tick turns off the diagnostic alone. -/
theorem stoppedTick_loadError (c : Config) (length : Option Nat) :
    (State.loadError c length).stoppedTick = { State.loadError c length with diag := none } := rfl

/-- Load errors differ in the recorded length alone. -/
theorem loadError_eq_with_diag (c : Config) (length length' : Option Nat) :
    State.loadError c length' =
      { State.loadError c length with diag := some ⟨.loadError, none, none, none, length'⟩ } := rfl

/-- Settles O7: reset is the load error, and a tick in STOPPED turns off its diagnostic. -/
theorem oversizedImageStopsWithLoadError : Obligations.OversizedImageStopsWithLoadError := by
  intro c image hlong
  rw [resetWith_of_long hlong]
  refine ⟨rfl, rfl, rfl, byte_loadError c _, _, step_of_stopped rfl, rfl, ?_⟩
  rw [stoppedTick_loadError]
  exact frame_diag _ none

/-- Settles O60: the loader's failure is the load error with no length. -/
theorem loaderFailureIsTheSameLoadError : Obligations.LoaderFailureIsTheSameLoadError := by
  intro c
  refine ⟨rfl, rfl, rfl, rfl, byte_loadError c none, fun image hlong => ?_, fun n => ?_,
    fun hwf => inv_loadError c hwf none⟩
  · show Frame (State.loadError c none) (State.resetWith c image) [.diag]
    rw [resetWith_of_long hlong, loadError_eq_with_diag c none]
    exact frame_diag _ _
  · refine ⟨_, run_of_stopped n rfl, rfl, ?_⟩
    show Frame (State.loadError c none) (State.loadError c none).stoppedTick [.diag]
    rw [stoppedTick_loadError]
    exact frame_diag _ none

end Sys2Proof.Proofs
end

section
/-! PROOF. Stale entries of the CallStack (10_state.md R25): every phase of a tick commutes with replacing the
CallStack, but for RET and CALL, which read and write below SP alone. -/

namespace Sys2Proof.Proofs

open Sys2Proof.Machine Sys2Proof.Laws

/-- The state with another CallStack. -/
def withStack (s : State) (stack : List Pc) : State := { s with stack := stack }

/-- `stack` agrees with the CallStack of `s` below SP. -/
def AgreesBelowSp (s : State) (stack : List Pc) : Prop :=
  stack.length = s.stack.length ∧ ∀ k, k < s.sp → stack.getD k 0 = s.stack.getD k 0

theorem sameButStaleStack_iff (s s' : State) :
    SameButStaleStack s s' ↔ ∃ stack, s' = withStack s stack ∧ AgreesBelowSp s stack := by
  constructor
  · rintro ⟨heq, hagree⟩
    exact ⟨s'.stack, heq, hagree⟩
  · rintro ⟨stack, rfl, hagree⟩
    exact ⟨rfl, hagree⟩

/-- `r` answers the next state `t`, and `r'` the same with another CallStack that agrees below SP. -/
def AnswersSame (r r' : Result) : Prop :=
  ∀ t, r = .next t → ∃ t', r' = .next t' ∧ SameButStaleStack t t'

/-- An answer that keeps SP and the CallStack, and commutes with replacing the CallStack. -/
theorem answersSame_of_commutes {s t : State} {stack : List Pc} (hagree : AgreesBelowSp s stack)
    (hsp : t.sp = s.sp) (hstack : t.stack = s.stack) :
    AnswersSame (.next t) (.next (withStack t stack)) := by
  rintro _ ⟨⟩
  refine ⟨_, rfl, (sameButStaleStack_iff _ _).mpr ⟨stack, rfl, ?_⟩⟩
  rw [AgreesBelowSp, hsp, hstack]
  exact hagree

theorem putBytes_withStack (s : State) (stack : List Pc) (a : Nat) (bs : List Byte) :
    (withStack s stack).putBytes a bs = withStack (s.putBytes a bs) stack := by
  induction bs generalizing s a with
  | nil => rfl
  | cons b rest ih => exact ih (s.putByte a b) (a + 1)

theorem loadRegs_withStack (s : State) (stack : List Pc) (a n : Nat) :
    (withStack s stack).loadRegs a n = withStack (s.loadRegs a n) stack := by
  induction n with
  | zero => rfl
  | succ n ih =>
    rw [State.loadRegs, ih, State.loadRegs]
    simp only [State.setReg, withStack, State.byte]

/-- An access whose effect commutes with replacing the CallStack commutes with it. -/
theorem access_withStack {s : State} {stack : List Pc} (hagree : AgreesBelowSp s stack) (i : Instr)
    (len : Nat) (effect : State → State) (heffect : effect (withStack s stack) = withStack (effect s) stack)
    (hsp : (effect s).sp = s.sp) (hstack : (effect s).stack = s.stack) :
    AnswersSame (s.access i len effect) ((withStack s stack).access i len effect) := by
  have hout : (withStack s stack).outside len = s.outside len := rfl
  rw [State.access, State.access, hout, heffect]
  split
  · exact answersSame_of_commutes hagree rfl rfl
  · exact answersSame_of_commutes hagree hsp hstack

theorem ret_answersSame {s : State} {stack : List Pc} (hagree : AgreesBelowSp s stack) :
    AnswersSame (exec .ret s) (exec .ret (withStack s stack)) := by
  obtain ⟨hlen, hbelow⟩ := hagree
  obtain hsp | hsp := Nat.eq_zero_or_pos s.sp
  · rw [exec_ret_of_empty s hsp, exec_ret_of_empty (withStack s stack) hsp]
    exact answersSame_of_commutes ⟨hlen, hbelow⟩ rfl rfl
  · rw [exec_ret_of_pos s hsp, exec_ret_of_pos (withStack s stack) hsp]
    rintro _ ⟨⟩
    refine ⟨_, rfl, (sameButStaleStack_iff _ _).mpr ⟨stack, ?_, hlen, fun k hk => hbelow k ?_⟩⟩
    · simp only [withStack, hbelow (s.sp - 1) (Nat.sub_lt hsp Nat.one_pos)]
    · exact Nat.lt_of_lt_of_le hk (Nat.sub_le ..)

/-- A push at SP of two CallStacks that agree below it gives two that agree below SP + 1. -/
theorem call_answersSame {s : State} {stack : List Pc} (hagree : AgreesBelowSp s stack) (nnn : Addr) :
    AnswersSame (exec (.call nnn) s) (exec (.call nnn) (withStack s stack)) := by
  obtain hsp | hsp := Nat.lt_or_ge s.sp s.cfg.stackDepth
  · rw [exec_call_of_room nnn s hsp, exec_call_of_room nnn (withStack s stack) hsp]
    obtain ⟨hlen, hbelow⟩ := hagree
    rintro _ ⟨⟩
    refine ⟨_, rfl, (sameButStaleStack_iff _ _).mpr
      ⟨stack.set s.sp (s.pc + 2), rfl, by simpa using hlen, fun k hk => ?_⟩⟩
    have hk : k < s.sp + 1 := hk
    obtain rfl | hne := eq_or_ne s.sp k
    · simp [List.getElem?_set, hlen]
    · simpa only [List.getD_eq_getElem?_getD, List.getElem?_set_ne hne] using hbelow k (by omega)
  · rw [exec_call_of_full nnn s hsp, exec_call_of_full nnn (withStack s stack) hsp]
    exact answersSame_of_commutes hagree rfl rfl

theorem exec_answersSame {s : State} {stack : List Pc} (hagree : AgreesBelowSp s stack) (i : Instr) :
    AnswersSame (exec i s) (exec i (withStack s stack)) := by
  cases i with
  | ret => exact ret_answersSame hagree
  | call nnn => exact call_answersSame hagree nnn
  | drw x y n =>
    simp only [exec, execDrw]
    exact access_withStack hagree _ _ _ rfl rfl rfl
  | ldB x =>
    simp only [exec, execLdB]
    exact access_withStack hagree _ _ _ (congrArg State.next (putBytes_withStack s stack _ _)) (by simp)
      (by simp)
  | stRegs x =>
    simp only [exec, execStRegs]
    exact access_withStack hagree _ _ _ (congrArg State.next (putBytes_withStack s stack _ _)) (by simp)
      (by simp)
  | ldRegs x =>
    simp only [exec, execLdRegs]
    exact access_withStack hagree _ _ _ (congrArg State.next (loadRegs_withStack s stack _ _)) (by simp)
      (by simp)
  | _ => exact answersSame_of_commutes hagree rfl rfl

theorem unrecognized_withStack (s : State) (stack : List Pc) (w : Word) :
    (withStack s stack).unrecognized w = withStack (s.unrecognized w) stack := by
  have hcfg : (withStack s stack).cfg = s.cfg := rfl
  rw [State.unrecognized, State.unrecognized, hcfg]
  cases s.cfg.unknownOpcode <;> rfl

theorem runWord_answersSame {s : State} {stack : List Pc} (hagree : AgreesBelowSp s stack) :
    AnswersSame s.runWord (withStack s stack).runWord := by
  have hfetch : (withStack s stack).fetch = s.fetch := rfl
  cases hf : s.fetch with
  | none =>
    rw [State.runWord, State.runWord, hfetch, hf]
    exact answersSame_of_commutes hagree rfl rfl
  | some w =>
    cases hd : decodeWord s.cfg w with
    | instr i =>
      rw [runWord_of_decoded s w i hf hd, runWord_of_decoded (withStack s stack) w i hf hd]
      exact exec_answersSame hagree i
    | unrecognized w' =>
      have hd' : decodeWord (withStack s stack).cfg w = .unrecognized w' := hd
      simp only [State.runWord, hfetch, hf, hd, hd', unrecognized_withStack]
      exact answersSame_of_commutes hagree (State.unrecognized_sp s w') (State.unrecognized_stack s w')

/-! ### The whole tick -/

theorem begin_withStack (s : State) (stack : List Pc) :
    (withStack s stack).begin = withStack s.begin stack := by
  have hinput : (withStack s stack).input = s.input := rfl
  rw [State.begin, State.begin, hinput]
  split <;> rfl

theorem awaitKey_withStack (s : State) (stack : List Pc) :
    (withStack s stack).awaitKey = withStack s.awaitKey stack := by
  have hpressed : (withStack s stack).pressed = s.pressed := rfl
  rw [State.awaitKey, State.awaitKey, hpressed]
  cases lowestKey s.pressed <;> rfl

theorem awaitKey_callStack (s : State) : s.awaitKey.sp = s.sp ∧ s.awaitKey.stack = s.stack := by
  obtain ⟨-, h⟩ | ⟨k, -, h⟩ := s.awaitKey_cases <;> simp [h]

/-- The end of the tick does not look at the CallStack. -/
theorem finishResult_answersSame {r r' : Result} (h : AnswersSame r r') :
    AnswersSame (finishResult r) (finishResult r') := by
  intro t ht
  obtain ⟨u, hu, rfl⟩ := finishResult_next r t ht
  obtain ⟨u', rfl, hsame⟩ := h u hu
  obtain ⟨stack, rfl, hagree⟩ := (sameButStaleStack_iff u u').mp hsame
  exact ⟨_, rfl, (sameButStaleStack_iff _ _).mpr ⟨stack, rfl, hagree⟩⟩

theorem agreesBelowSp_begin {s : State} {stack : List Pc} (hagree : AgreesBelowSp s stack) :
    AgreesBelowSp s.begin stack := by
  rw [AgreesBelowSp, State.begin_stack, State.begin_sp]
  exact hagree

theorem step_answersSame {s : State} {stack : List Pc} (hagree : AgreesBelowSp s stack) :
    AnswersSame (step s) (step (withStack s stack)) := by
  have hmode : (withStack s stack).mode = s.mode := rfl
  have hinput : (withStack s stack).input = s.input := rfl
  cases hm : s.mode with
  | stopped =>
    rw [step_of_stopped hm, step_of_stopped (hmode.trans hm)]
    exact answersSame_of_commutes hagree rfl rfl
  | awaitingKey =>
    cases hq : s.input.quit with
    | true =>
      simp only [step, tick, hmode, hm, hinput, hq, if_true]
      exact answersSame_of_commutes hagree rfl rfl
    | false =>
      obtain ⟨hsp, hstack⟩ := awaitKey_callStack s.begin
      have hawait : (withStack s stack).awaitTick = withStack s.awaitTick stack := by
        rw [awaitTick_eq, awaitTick_eq, begin_withStack, awaitKey_withStack]
        rfl
      simp only [step, tick, hmode, hm, hinput, hq, Bool.false_eq_true, if_false, hawait]
      exact answersSame_of_commutes hagree (hsp.trans (State.begin_sp s)) (hstack.trans (State.begin_stack s))
  | running =>
    cases hq : s.input.quit with
    | true =>
      simp only [step, tick, hmode, hm, hinput, hq, if_true]
      exact answersSame_of_commutes hagree rfl rfl
    | false =>
      rw [step_of_running s hm hq, step_of_running (withStack s stack) hm hq, begin_withStack]
      exact finishResult_answersSame (runWord_answersSame (agreesBelowSp_begin hagree))

/-- Settles O14: the other state is this one with another CallStack, and every tick answers the same. -/
theorem staleStackEntriesAreUnobservable : Obligations.StaleStackEntriesAreUnobservable := by
  intro s s' t hsame hstep
  obtain ⟨stack, rfl, hagree⟩ := (sameButStaleStack_iff s s').mp hsame
  exact step_answersSame hagree t hstep

end Sys2Proof.Proofs
end

section
/-! PROOF. A canonical Memory is determined by what it reads as (notes/assumptions/11.md). -/

namespace Sys2Proof.Proofs

open Sys2Proof.Machine

/-- In a list of rising addresses, the cells are what `find` finds. -/
theorem mem_iff_find {m : Memory} (h : m.Pairwise fun p q => p.1 < q.1) (a : Nat) (b : Byte) :
    (a, b) ∈ m ↔ Memory.find m a = some b := by
  induction m with
  | nil => simp [Memory.find]
  | cons head rest ih =>
    obtain ⟨k, b'⟩ := head
    obtain ⟨hhead, hrest⟩ := List.pairwise_cons.mp h
    by_cases hk : k = a
    · subst hk
      have hnot : (k, b) ∉ rest := fun hmem => Nat.lt_irrefl k (hhead _ hmem)
      simp [Memory.find, hnot, eq_comm]
    · simp [Memory.find, hk, Ne.symm hk, ih hrest]

/-- A canonical Memory lists an address exactly where it differs from the reset contents. -/
theorem find_eq_of_wf {c : Config} {m : Memory} (h : Memory.wf c m) (a : Nat) :
    Memory.find m a = if Memory.read c m a = resetByte c a then none else some (Memory.read c m a) := by
  have hlisted := Memory.read_ne_iff c m h a
  split
  · rename_i heq
    cases hfind : Memory.find m a with
    | none => rfl
    | some b => exact absurd heq (hlisted.mpr ⟨b, hfind⟩)
  · rename_i hne
    obtain ⟨b, hb⟩ := hlisted.mp hne
    rw [Memory.read, hb, Option.getD_some]

/-- Settles O15: the two lists have the same cells in the same order. -/
theorem canonicalMemoryIsUnique : Obligations.CanonicalMemoryIsUnique := by
  intro c m m' hm hm' hread
  have hirrefl : Std.Irrefl fun p q : Host.Cell => p.1 < q.1 := ⟨fun p => Nat.lt_irrefl p.1⟩
  have hantisymm : Std.Antisymm fun p q : Host.Cell => p.1 < q.1 :=
    ⟨fun p q hpq hqp => absurd hqp (Nat.lt_asymm hpq)⟩
  refine hm.1.eq_of_mem_iff hm'.1 fun cell => ?_
  obtain ⟨a, b⟩ := cell
  rw [mem_iff_find hm.1, mem_iff_find hm'.1, find_eq_of_wf hm, find_eq_of_wf hm', hread]

end Sys2Proof.Proofs
end

section
/-! PROOF. What single ticks do (40_engine_cycle.md sections 1 and 2, 45_timers_keys.md R227): the start of a
tick, a fetched word, a failed fetch, an UNRECOGNIZED word, a quit and the key wait. -/

namespace Sys2Proof.Proofs

open Sys2Proof.Machine Sys2Proof.Laws

/-! ### The start of a tick -/

/-- On a strobe ST counts down by 1 and stays at 0; without one it stays (R220). -/
theorem toNat_begin_st (s : State) :
    s.begin.st.toNat = s.st.toNat - (if s.input.strobe then 1 else 0) := by
  rw [State.begin_st]
  cases s.input.strobe with
  | false => simp
  | true =>
    by_cases hst : s.st = 0
    · simp [hst]
    · have hle : (1 : Byte) ≤ s.st := by bv_omega
      rw [if_pos ⟨rfl, hst⟩]
      exact BitVec.toNat_sub_of_le hle

/-- The start of a tick changes the inputs it takes, the cleared outputs and the timers alone. -/
theorem frame_begin (s : State) :
    Frame s s.begin [.keys, .prevKeys, .rndIn, .inputs, .redraw, .diag, .dt, .st, .freeDrawn] := by
  rw [State.begin]
  split
  · exact frame_of_takeParts rfl
  · exact frame_of_takeParts rfl

/-- Settles O17, field by field. -/
theorem tickBeginsWithKeysAndTimers : Obligations.TickBeginsWithKeysAndTimers := fun s =>
  ⟨State.begin_keys s, State.begin_prevKeys s, State.begin_rndIn s, State.begin_inputs s,
    State.begin_redraw s, State.begin_diag s, toNat_begin_dt s, toNat_begin_st s, frame_begin s⟩

/-! ### A tick that fetches -/

/-- Settles O16: the fetch at the start of the tick sees the bytes at PC. -/
theorem stepRunsTheDecodedInstruction : Obligations.StepRunsTheDecodedInstruction := by
  intro s i hm hq hin hdec
  have hfetch := (State.begin_fetch s).trans (State.fetch_inside s hin)
  have hdec' := (State.begin_cfg s).symm ▸ hdec
  rw [step_of_running s hm hq, runWord_of_decoded s.begin _ i hfetch hdec']

/-- The end of a tick after a fatal stop drives nothing more. -/
theorem finish_fatal (s : State) (kind : FatalKind) (word : Option Word) (addr : Option Nat) :
    (s.fatal kind word addr).finish = s.fatal kind word addr := rfl

/-- Settles O20: the tick is the fatal stop of the failed fetch. -/
theorem fetchOutsideMemoryIsFatal : Obligations.FetchOutsideMemoryIsFatal := by
  intro s hm hq hout
  have hfetch := (State.begin_fetch s).trans (State.fetch_outside s hout)
  have hrun : s.begin.runWord = .next (s.begin.fatal .fetchBounds none none) := by
    rw [State.runWord, hfetch]
  refine ⟨_, ?_, fatalStop_fatal s.begin .fetchBounds none none⟩
  rw [step_of_running s hm hq, hrun, finishResult, finish_fatal]

/-- A new diagnostic and the move to the next word change those two alone. -/
theorem frame_diag_next (s : State) (diag : Option Diag) :
    Frame s { s with diag := diag, pc := s.pc + 2 } [.pc, .diag] :=
  frame_of_takeParts rfl

/-- Settles O21, by the policy. -/
theorem unrecognizedWordFollowsPolicy : Obligations.UnrecognizedWordFollowsPolicy := by
  intro s w hm hq hin hw hdec
  have hfetch := (State.begin_fetch s).trans (State.fetch_inside s hin)
  rw [← hw] at hfetch
  have hrun : s.begin.runWord = .next (s.begin.unrecognized w) := by
    rw [State.runWord, hfetch]
    simp only [State.begin_cfg, hdec]
  have hstep : step s = .next (s.begin.unrecognized w).finish := by
    rw [step_of_running s hm hq, hrun, finishResult]
  refine ⟨_, hstep, fun hstrict => ?_, fun hlenient => ?_⟩
  all_goals
    obtain ⟨hpol, hu⟩ | ⟨hpol, hu⟩ := unrecognized_cases s.begin w
    all_goals simp only [State.begin_cfg] at hpol
  · rw [hu, finish_fatal]
    exact fatalStop_fatal ..
  · simp [hstrict] at hpol
  · simp [hlenient] at hpol
  · rw [hu]
    refine ⟨by simp, by simp [hm], by simp, ?_⟩
    exact frame_trans (frame_diag_next s.begin _) (frame_finish _) (by simp) (by simp)

/-! ### Quit -/

/-- A quit in either mode that is not STOPPED (R101). -/
theorem step_of_quit {s : State} (hm : s.mode ≠ .stopped) (hq : s.input.quit = true) :
    step s = .next s.quitTick := by
  cases hmode : s.mode with
  | stopped => exact absurd hmode hm
  | running | awaitingKey => simp only [step, tick, hmode, hq, if_true]

theorem frame_quitTick (s : State) :
    Frame s s.quitTick [.mode, .stopReason, .redraw, .tone, .diag, .keys, .prevKeys, .rndIn, .inputs,
      .freeDrawn] :=
  frame_of_takeParts rfl

/-- Settles O22: the tick is the quit tick in both modes. -/
theorem quitStopsBeforeTimersAndFetch : Obligations.QuitStopsBeforeTimersAndFetch := fun s hm hq =>
  ⟨_, step_of_quit hm hq, rfl, rfl, rfl, rfl, rfl, rfl, rfl, rfl, frame_quitTick s⟩

/-! ### The key wait -/

/-- No key is pressed exactly when there is no lowest one. -/
theorem lowestKey_eq_none_iff (keys : Word) :
    lowestKey keys = none ↔ ∀ k, k < 16 → keys.getLsbD k = false := by
  simp [lowestKey]

/-- The lowest key is the pressed one with no pressed key below it. -/
theorem lowestKey_eq_some {keys : Word} {k : Nat} (hk : k < 16) (hdown : keys.getLsbD k = true)
    (hbelow : ∀ j, j < k → keys.getLsbD j = false) : lowestKey keys = some k := by
  rw [lowestKey, List.find?_range_eq_some]
  exact ⟨hdown, by simpa using hk, fun j hj => by simp [hbelow j hj]⟩

/-- A key is pressed in this tick when it is down, and under EDGE was not down before (R227, D25). -/
theorem getLsbD_begin_pressed (s : State) {k : Nat} (hk : k < 16) :
    s.begin.pressed.getLsbD k = true ↔
      s.input.keys.getLsbD k = true ∧ (s.cfg.keyTrigger = .edge → s.keys.getLsbD k = false) := by
  rw [State.pressed, State.begin_cfg, State.begin_keys, State.begin_prevKeys]
  cases s.cfg.keyTrigger with
  | level => simp
  | edge => simp [hk]

theorem step_of_awaiting {s : State} (hm : s.mode = .awaitingKey) (hq : s.input.quit = false) :
    step s = .next s.awaitTick := by
  simp only [step, tick, hm, hq, Bool.false_eq_true, if_false]

/-- No pressed key: the tick only refreshes, and drives the tone. -/
theorem awaitTick_of_no_key {s : State} (h : lowestKey s.begin.pressed = none) :
    s.awaitTick = { s.begin with tone := s.begin.toneNow } := by
  rw [awaitTick_eq, State.awaitKey, h]

/-- A pressed key is loaded, PC moves on and the engine runs. -/
theorem awaitTick_of_key {s : State} {k : Nat} (h : lowestKey s.begin.pressed = some k) :
    s.awaitTick =
      { (s.begin.setReg s.begin.pendingReg (BitVec.ofNat 8 k)) with
        pc := s.begin.pc + 2, mode := .running, tone := s.awaitTick.tone } := by
  rw [awaitTick_eq, State.awaitKey, h]

theorem frame_tone (s : State) (tone : Bool) : Frame s { s with tone := tone } [.tone] :=
  frame_of_takeParts rfl

/-- A completed key wait changes Mode, the registers, PC and the tone alone. -/
theorem frame_keyWait_completed (s : State) (x : Reg) (b : Byte) (pc : Pc) (mode : Mode) (tone : Bool) :
    Frame s { (s.setReg x b) with pc := pc, mode := mode, tone := tone } [.mode, .regs, .pc, .tone] :=
  frame_of_takeParts rfl

/-- Settles O23: with no lowest key the key-wait check changes nothing. -/
theorem keyWaitWithoutKeyOnlyRefreshes : Obligations.KeyWaitWithoutKeyOnlyRefreshes := by
  intro s hm hq hnokey
  have hnone : lowestKey s.begin.pressed = none := by
    rw [lowestKey_eq_none_iff]
    intro k hk
    rw [← Bool.not_eq_true, getLsbD_begin_pressed s hk]
    rintro ⟨hdown, hnew⟩
    obtain ⟨hedge, hbefore⟩ := hnokey k hk hdown
    simp [hnew hedge] at hbefore
  refine ⟨_, step_of_awaiting hm hq, ?_⟩
  rw [awaitTick_of_no_key hnone]
  exact ⟨(State.begin_mode s).trans hm, State.begin_pc s, State.begin_redraw s, frame_tone s.begin _⟩

/-- Settles O24: the lowest pressed key is `k`, and `awaitTick_of_key` says what the tick does with it. -/
theorem keyWaitLoadsTheLowestPressedKey : Obligations.KeyWaitLoadsTheLowestPressedKey := by
  intro s k hm hq hk hdown hedge hbelow
  have hlowest : lowestKey s.begin.pressed = some k := by
    refine lowestKey_eq_some hk ((getLsbD_begin_pressed s hk).mpr ⟨hdown, hedge⟩) fun j hj => ?_
    rw [← Bool.not_eq_true, getLsbD_begin_pressed s (hj.trans hk)]
    rintro ⟨hdown', hnew⟩
    obtain ⟨hedge', hbefore⟩ := hbelow j hj hdown'
    simp [hnew hedge'] at hbefore
  refine ⟨_, step_of_awaiting hm hq, ?_⟩
  rw [awaitTick_of_key hlowest]
  have hreg : ∀ r, (s.begin.setReg s.begin.pendingReg (BitVec.ofNat 8 k)).reg r =
      if r = s.pendingReg then BitVec.ofNat 8 k else s.reg r := by
    intro r
    rw [State.reg_setReg, State.begin_pendingReg, State.begin_reg]
  refine ⟨rfl, ?_, fun r hr => (hreg r).trans (if_neg hr), congrArg (· + 2) (State.begin_pc s),
    State.begin_redraw s, frame_keyWait_completed s.begin _ _ _ _ _⟩
  calc (BitVec.toNat (State.reg _ s.pendingReg))
      = (BitVec.ofNat 8 k).toNat := congrArg BitVec.toNat ((hreg s.pendingReg).trans (if_pos rfl))
    _ = k := by rw [BitVec.toNat_ofNat]; omega

end Sys2Proof.Proofs
end

section
/-! PROOF. Instructions one by one: control flow, ALU, index register, timers and keys (41_control_flow.md to
43_index_memory.md, 45_timers_keys.md), and the output ports (10_state.md R46). -/

namespace Sys2Proof.Proofs

open Sys2Proof.Machine Sys2Proof.Laws

/-! ### Control flow -/

/-- A stop changes Mode and StopReason alone. -/
theorem frame_stop (s : State) (why : StopReason) : Frame s (s.stop why) [.mode, .stopReason] :=
  frame_of_takeParts rfl

/-- Settles O26: HALT is a normal stop. -/
theorem haltStopsNormally : Obligations.HaltStopsNormally := fun s =>
  ⟨_, rfl, rfl, rfl, rfl, frame_stop s .halt⟩

/-- Settles O32: RET pops the entry that CALL pushed. -/
theorem returnUndoesCall : Obligations.ReturnUndoesCall := by
  rintro nnn s ⟨hlen, -, -⟩ hroom
  have hin : s.sp < s.stack.length := hlen.symm ▸ hroom
  refine ⟨_, _, exec_call_of_room nnn s hroom, exec_ret_of_pos _ (Nat.succ_pos s.sp), ?_, rfl⟩
  simp only [Nat.add_sub_cancel, List.getD_eq_getElem?_getD, List.getElem?_set_self hin,
    Option.getD_some]

/-- A skip moves PC by 4 or by 2. -/
theorem pc_skipIf (s : State) (cond : Bool) :
    (cond = true → (s.skipIf cond).pc = s.pc + 4) ∧ (cond = false → (s.skipIf cond).pc = s.pc + 2) := by
  constructor <;> rintro rfl <;> rfl

/-- Settles O34: each skip is `skipIf` of its condition. -/
theorem registerSkips : Obligations.RegisterSkips := by
  intro x y s
  refine ⟨⟨_, rfl, frame_skipIf s _, fun h => (pc_skipIf s _).1 ?_, fun h => (pc_skipIf s _).2 ?_⟩,
    ⟨_, rfl, frame_skipIf s _, fun h => (pc_skipIf s _).1 ?_, fun h => (pc_skipIf s _).2 ?_⟩⟩
  all_goals simp [h]

/-- Settles O35: JP V0 is a jump to a sum that fits in 13 bits. -/
theorem indexedJumpAddsV0 : Obligations.IndexedJumpAddsV0 := by
  intro nnn s
  have hpc := toNat_indexed_target nnn (s.reg 0)
  refine ⟨_, rfl, hpc, ?_, frame_jump s _⟩
  show (nnn.toWord.toPc + (s.reg 0).setWidth 17).toNat ≤ 0x10FE
  rw [hpc]
  omega

/-! ### ALU -/

/-- Settles O37: each operation writes one byte to Vx, and `BitVec` gives its bits. -/
theorem bitwiseOperations : Obligations.BitwiseOperations := by
  intro x y s
  refine ⟨⟨_, rfl, fun b => ?_, reg_setReg_next_of_ne s x _, rfl, frame_setReg_next s x _⟩,
    ⟨_, rfl, fun b => ?_, reg_setReg_next_of_ne s x _, rfl, frame_setReg_next s x _⟩,
    ⟨_, rfl, fun b => ?_, reg_setReg_next_of_ne s x _, rfl, frame_setReg_next s x _⟩⟩
  · rw [reg_setReg_next_same, BitVec.getLsbD_or]
  · rw [reg_setReg_next_same, BitVec.getLsbD_and]
  · rw [reg_setReg_next_same, BitVec.getLsbD_xor]

/-- Settles O41: RND writes the latched byte masked by kk. -/
theorem randomIsMasked : Obligations.RandomIsMasked := by
  intro x kk s
  refine ⟨_, rfl, fun b => ?_, reg_setReg_next_of_ne s x _, rfl, frame_setReg_next s x _⟩
  rw [reg_setReg_next_same, BitVec.getLsbD_and]

/-- New registers and the move to the next word change those two alone. -/
theorem frame_regs_next (s : State) (v : Vector Byte 16) :
    Frame s { s with v := v : State }.next [.pc, .regs] :=
  frame_of_takeParts rfl

/-- What an instruction with a flag leaves: VF the flag, Vx the result unless it is VF, the rest as it was
(42_register_alu.md R163). -/
theorem setRegFlag_next_spec (s : State) (x : Reg) (b : Byte) (f : Bool) :
    (s.setRegFlag x b f).next.reg 15 = flagByte f ∧ (x ≠ 15 → (s.setRegFlag x b f).next.reg x = b) ∧
      (∀ r, r ≠ x → r ≠ 15 → (s.setRegFlag x b f).next.reg r = s.reg r) ∧
      (s.setRegFlag x b f).next.pc = s.pc + 2 ∧ Frame s (s.setRegFlag x b f).next [.pc, .regs] := by
  refine ⟨?_, fun hx => ?_, fun r hrx hr => ?_, rfl, frame_regs_next s _⟩
  · rw [State.next_reg, State.reg_setRegFlag, if_pos rfl]
  · rw [State.next_reg, State.reg_setRegFlag, if_neg hx, if_pos rfl]
  · rw [State.next_reg, State.reg_setRegFlag, if_neg hr, if_neg hrx]

/-- An instruction that writes `b` and the flag `f` answers as a claim about their values says. -/
theorem flag_claim {i : Instr} {s : State} {x : Reg} {b : Byte} {f : Bool} {flag result : Nat}
    (hexec : exec i s = .next (s.setRegFlag x b f).next) (hf : (flagByte f).toNat = flag)
    (hb : b.toNat = result) :
    ∃ t, exec i s = .next t ∧ (t.reg 15).toNat = flag ∧ (x ≠ 15 → (t.reg x).toNat = result) ∧
      (∀ r, r ≠ x → r ≠ 15 → t.reg r = s.reg r) ∧ t.pc = s.pc + 2 ∧ Frame s t [.pc, .regs] := by
  obtain ⟨hflag, hresult, hrest⟩ := setRegFlag_next_spec s x b f
  exact ⟨_, hexec, by rw [hflag, hf], fun hx => by rw [hresult hx, hb], hrest⟩

theorem toNat_flagByte_decide (p : Prop) [Decidable p] :
    (flagByte (decide p)).toNat = if p then 1 else 0 := by
  by_cases hp : p <;> simp [flagByte, hp]

/-- A flag that is bit k of a byte, as a number. -/
theorem toNat_flagByte_getLsbD (b : Byte) (k : Nat) :
    (flagByte (b.getLsbD k)).toNat = b.toNat / 2 ^ k % 2 := by
  have hbit : b.getLsbD k = decide (b.toNat / 2 ^ k % 2 = 1) := by
    rw [← BitVec.testBit_toNat, Nat.testBit_eq_decide_div_mod_eq]
  rw [hbit, toNat_flagByte_decide]
  split <;> omega

/-- Settles O38. -/
theorem addSetsCarryLast : Obligations.AddSetsCarryLast := fun _ _ _ =>
  flag_claim rfl (toNat_flagByte_decide _) (BitVec.toNat_add _ _)

theorem toNat_byte_sub (a b : Byte) : (a - b).toNat = (a.toNat + 256 - b.toNat) % 256 := by
  rw [BitVec.toNat_sub]
  omega

/-- Settles O39: SUBN is SUB with the operands exchanged. -/
theorem subtractSetsNoBorrowLast : Obligations.SubtractSetsNoBorrowLast := fun _ _ _ =>
  ⟨flag_claim rfl (toNat_flagByte_decide _) (toNat_byte_sub _ _),
    flag_claim rfl (toNat_flagByte_decide _) (toNat_byte_sub _ _)⟩

/-- Settles O40: the bits shifted out are bit 0 and bit 7. -/
theorem shiftsSetTheBitShiftedOutLast : Obligations.ShiftsSetTheBitShiftedOutLast := by
  intro x s
  have hbyte := (s.reg x).isLt
  refine ⟨flag_claim rfl ?_ ?_, flag_claim rfl ?_ ?_⟩
  · rw [shiftedOutRight, toNat_flagByte_getLsbD, Nat.pow_zero, Nat.div_one]
  · rw [BitVec.toNat_ushiftRight, Nat.shiftRight_eq_div_pow]
  · rw [shiftedOutLeft, toNat_flagByte_getLsbD]
    omega
  · rw [BitVec.toNat_shiftLeft, Nat.shiftLeft_eq, Nat.mul_comm]

/-! ### Index register -/

/-- Settles O43: under a legal configuration FONT_BASE + 5 * Vx fits in 16 bits. -/
theorem indexAddAndGlyphAddress : Obligations.IndexAddAndGlyphAddress := by
  intro x s
  refine ⟨⟨_, rfl, ?_, rfl, frame_index_next s _⟩, fun hwf => ⟨_, rfl, ?_, rfl, frame_index_next s _⟩⟩
  · show (s.i + (s.reg x).setWidth 16).toNat = _
    rw [BitVec.toNat_add, BitVec.toNat_setWidth_of_le (by decide)]
  · obtain ⟨-, -, hfont, -⟩ := hwf
    have hfont : s.cfg.fontBase + 80 ≤ 0x200 := hfont
    have hbyte := (s.reg x).isLt
    show (BitVec.ofNat 16 (s.cfg.fontBase + 5 * (s.reg x).toNat)).toNat = _
    rw [BitVec.toNat_ofNat]
    exact Nat.mod_eq_of_lt (by omega)

/-! ### Timers and keys -/

theorem frame_soundTimer_next (s : State) (st : Byte) :
    Frame s { s with st := st : State }.next [.pc, .st] :=
  frame_of_takeParts rfl

/-- Settles O54: the tone at the end of the tick follows the new ST. -/
theorem delayTimerIsReadAndSoundTimerIsSet : Obligations.DelayTimerIsReadAndSoundTimerIsSet := by
  intro x s
  refine ⟨fun c => decodeInvertsEncode c (.ldStVx x) rfl,
    ⟨_, rfl, reg_setReg_next_same s x _, reg_setReg_next_of_ne s x _, rfl, frame_setReg_next s x _⟩,
    ⟨_, rfl, rfl, rfl, fun hm => ?_, frame_soundTimer_next s _⟩⟩
  have htone := toneNow_iff { s with st := s.reg x : State }.next
  rw [State.finish_tone, htone]
  simp only [State.next_st, State.next_mode, hm, ne_eq, not_false_eq_true, and_true]
  bv_omega

theorem keyDown_iff (s : State) (k : Byte) :
    s.keyDown k = true ↔ k.toNat ≤ 15 ∧ s.keys.getLsbD k.toNat = true := by
  rw [State.keyDown, Bool.and_eq_true, decide_eq_true_iff]

/-- Settles O55: both skip on `keyDown`. -/
theorem keySkips : Obligations.KeySkips := by
  intro x s
  simp only [← keyDown_iff]
  refine ⟨⟨_, rfl, frame_skipIf s _, fun h => (pc_skipIf s _).1 ?_, fun h => (pc_skipIf s _).2 ?_⟩,
    ⟨_, rfl, frame_skipIf s _, fun h => (pc_skipIf s _).1 ?_, fun h => (pc_skipIf s _).2 ?_⟩⟩
  all_goals simp [h]

theorem frame_keyWait (s : State) (mode : Mode) (x : Reg) :
    Frame s { s with mode := mode, pendingReg := x } [.mode, .pendingReg] :=
  frame_of_takeParts rfl

/-- Settles O56: the wait begins without a look at the keys. -/
theorem keyWaitBegins : Obligations.KeyWaitBegins := fun x s =>
  ⟨_, rfl, rfl, rfl, frame_keyWait s _ x⟩

/-! ### Output ports -/

/-- Settles O59: `fb_out` is a map over the rows and columns, and `exit_ok` a match on Mode and StopReason. -/
theorem outputPortsShowTheState : Obligations.OutputPortsShowTheState := by
  intro s
  refine ⟨by simp [State.fbOut], ?_, fun x y hx hy => ?_, decide_eq_true_iff, fun hm => ?_, ?_, ?_⟩
  · intro row hrow
    obtain ⟨y, -, rfl⟩ := List.mem_map.mp hrow
    simp
  · simp [State.fbOut, hx, hy]
  · rw [State.exitOk]
    cases hmode : s.mode with
    | stopped => exact absurd hmode hm
    | running | awaitingKey => rfl
  · rintro hm (hr | hr) <;> rw [State.exitOk, hm, hr]
  · intro k hm hr
    rw [State.exitOk, hm, hr]

end Sys2Proof.Proofs
end

section
/-! PROOF. The memory transfers (43_index_memory.md R183 to R185): what they store and load, the accesses that
do not fit (60_exceptions.md R262), and a store into the next instruction (20_memory.md R73). -/

namespace Sys2Proof.Proofs

open Sys2Proof.Machine Sys2Proof.Laws

/-! ### Stores and loads as changes of one field -/

/-- A store of bytes changes the Memory field alone. -/
theorem putBytes_eq_with_mem (s : State) (a : Nat) (bs : List Byte) :
    s.putBytes a bs = { s with mem := (s.putBytes a bs).mem } := by
  induction bs generalizing s a with
  | nil => rfl
  | cons b rest ih => exact ih (s.putByte a b) (a + 1)

/-- A load of registers changes the register field alone. -/
theorem loadRegs_eq_with_v (s : State) (a n : Nat) :
    s.loadRegs a n = { s with v := (s.loadRegs a n).v } := by
  induction n with
  | zero => rfl
  | succ n ih =>
    rw [State.loadRegs, ih]
    rfl

theorem frame_memory_next (s : State) (mem : Memory) :
    Frame s { s with mem := mem : State }.next [.pc, .memory] :=
  frame_of_takeParts rfl

theorem frame_putBytes_next (s : State) (a : Nat) (bs : List Byte) :
    Frame s (s.putBytes a bs).next [.pc, .memory] := by
  rw [putBytes_eq_with_mem]
  exact frame_memory_next s _

theorem frame_loadRegs_next (s : State) (a n : Nat) : Frame s (s.loadRegs a n).next [.pc, .regs] := by
  rw [loadRegs_eq_with_v]
  exact frame_regs_next s _

theorem pc_putBytes_next (s : State) (a : Nat) (bs : List Byte) : (s.putBytes a bs).next.pc = s.pc + 2 := by
  rw [State.next_pc, State.putBytes_pc]

/-- A stored byte is read back at its place. -/
theorem byte_putBytes_next_at (s : State) (a : Nat) (bs : List Byte) {k : Nat} (hk : k < bs.length) :
    (s.putBytes a bs).next.byte (a + k) = bs.getD k 0 := by
  rw [State.next_byte, State.byte_putBytes, if_pos (by omega), Nat.add_sub_cancel_left]

/-- A byte outside the stored range is as it was. -/
theorem byte_putBytes_next_of_outside (s : State) (a : Nat) (bs : List Byte) {k : Nat}
    (hk : k < a ∨ a + bs.length ≤ k) : (s.putBytes a bs).next.byte k = s.byte k := by
  rw [State.next_byte, State.byte_putBytes, if_neg (by omega)]

/-! ### The digits and registers stored -/

/-- The three stored bytes of LD B,Vx as numbers. -/
theorem toNat_decimalDigits (b : Byte) :
    ((decimalDigits b).getD 0 0).toNat = b.toNat / 100 ∧
      ((decimalDigits b).getD 1 0).toNat = b.toNat / 10 % 10 ∧
      ((decimalDigits b).getD 2 0).toNat = b.toNat % 10 := by
  have hbyte := b.isLt
  simp only [decimalDigits, List.getD_cons_zero, List.getD_cons_succ, BitVec.toNat_ofNat]
  omega

/-- The byte stored for register r by LD [I],Vx. -/
theorem firstRegs_getD_reg (s : State) {x r : Reg} (hr : r ≤ x) :
    (s.firstRegs (x.toNat + 1)).getD r.toNat 0 = s.reg r := by
  rw [State.firstRegs_getD s _ _ (by bv_omega), BitVec.ofNat_toNat, BitVec.setWidth_eq]

/-- Settles O44: the digits are stored from I on. -/
theorem decimalDigitsAreStored : Obligations.DecimalDigitsAreStored := by
  intro x s hin
  obtain ⟨hhundreds, htens, hones⟩ := toNat_decimalDigits (s.reg x)
  have hat := fun {k : Nat} => byte_putBytes_next_at s s.i.toNat (decimalDigits (s.reg x)) (k := k)
  have hat0 := hat (k := 0) (by simp)
  refine ⟨_, State.exec_ldB_inside s x (by omega), ?_, ?_, ?_,
    fun a ha => byte_putBytes_next_of_outside s _ _ (by simpa using ha), pc_putBytes_next s _ _,
    frame_putBytes_next s _ _⟩
  · rw [Nat.add_zero] at hat0
    rw [hat0, hat (by simp), hat (by simp), hhundreds, htens, hones]
    omega
  · rw [hat (by simp), htens]
    omega
  · rw [hat (by simp), hones]
    omega

/-- Settles O45: the registers are stored from I on, in order. -/
theorem registersAreStored : Obligations.RegistersAreStored := by
  intro x s hin
  refine ⟨_, State.exec_stRegs_inside s x (by omega), fun r hr => ?_, fun a ha => ?_, pc_putBytes_next s _ _,
    frame_putBytes_next s _ _⟩
  · rw [byte_putBytes_next_at s _ _ (by rw [State.firstRegs_length]; bv_omega), firstRegs_getD_reg s hr]
  · exact byte_putBytes_next_of_outside s _ _ (by rw [State.firstRegs_length]; omega)

/-- Settles O46: `loadRegs` loads V0 to Vx and no other register. -/
theorem registersAreLoaded : Obligations.RegistersAreLoaded := by
  intro x s hin
  have hreg := State.reg_loadRegs s s.i.toNat (x.toNat + 1) (by omega)
  refine ⟨_, State.exec_ldRegs_inside s x (by omega), fun r hr => ?_, fun r hr => ?_, ?_,
    frame_loadRegs_next s _ _⟩
  · rw [State.next_reg, hreg, if_pos (by bv_omega)]
  · rw [State.next_reg, hreg, if_neg (by bv_omega)]
  · rw [State.next_pc, State.loadRegs_pc]

/-- Settles O47: each of the four is the fatal stop of an access that does not fit. -/
theorem dataAccessOutsideMemoryIsFatal : Obligations.DataAccessOutsideMemoryIsFatal := fun x y n s =>
  ⟨fun h => ⟨_, State.exec_ldB_outside s x (by omega), fatalStop_fatal s _ _ _⟩,
    fun h => ⟨⟨_, State.exec_stRegs_outside s x (by omega), fatalStop_fatal s _ _ _⟩,
      ⟨_, State.exec_ldRegs_outside s x (by omega), fatalStop_fatal s _ _ _⟩⟩,
    fun hn h => ⟨_, State.exec_drw_outside s x y n hn (by omega), fatalStop_fatal s _ _ _⟩⟩

/-! ### A store into the next instruction -/

/-- The fetch after a store reads the two bytes after the storing word. -/
theorem fetch_putBytes_next (s : State) (a : Nat) (bs : List Byte) (hpc : s.pc.toNat < 0x1FFFE)
    (hin : s.pc.toNat + 3 < s.cfg.memSize) :
    (s.putBytes a bs).next.fetch = some ((s.putBytes a bs).next.byte (s.pc.toNat + 2) ++
      (s.putBytes a bs).next.byte (s.pc.toNat + 3)) := by
  have hnext : (s.putBytes a bs).next.pc.toNat = s.pc.toNat + 2 := by
    rw [pc_putBytes_next]
    bv_omega
  rw [State.fetch_inside _ (by rw [hnext, State.next_cfg, State.putBytes_cfg]; omega), hnext]

/-- Settles O48: each byte of the next word is the stored one at its place, or the old one outside the
store. -/
theorem storeIsSeenByTheNextFetch : Obligations.StoreIsSeenByTheNextFetch := by
  intro x s hpc hin
  refine ⟨fun hfit => ?_, fun hfit => ?_⟩
  · have hread : ∀ a r, r ≤ x → s.i.toNat + r.toNat = a →
        (s.putBytes s.i.toNat (s.firstRegs (x.toNat + 1))).next.byte a = s.reg r := by
      rintro _ r hr rfl
      rw [byte_putBytes_next_at s _ _ (by rw [State.firstRegs_length]; bv_omega), firstRegs_getD_reg s hr]
    have hkept : ∀ a, (∀ r : Reg, r ≤ x → s.i.toNat + r.toNat ≠ a) →
        (s.putBytes s.i.toNat (s.firstRegs (x.toNat + 1))).next.byte a = s.byte a := by
      intro a hne
      refine byte_putBytes_next_of_outside s _ _ ?_
      rw [State.firstRegs_length]
      by_contra hinside
      have hofNat : (BitVec.ofNat 4 (a - s.i.toNat)).toNat = a - s.i.toNat := by
        rw [BitVec.toNat_ofNat]
        omega
      refine hne (BitVec.ofNat 4 (a - s.i.toNat)) ?_ (by omega)
      rw [BitVec.le_def, hofNat]
      omega
    exact ⟨_, _, _, State.exec_stRegs_inside s x (by omega), fetch_putBytes_next s _ _ hpc hin,
      hread _, hread _, hkept _, hkept _⟩
  · obtain ⟨hhundreds, htens, hones⟩ := toNat_decimalDigits (s.reg x)
    have hread : ∀ a k, k < 3 → s.i.toNat + k = a →
        (s.putBytes s.i.toNat (decimalDigits (s.reg x))).next.byte a =
          (decimalDigits (s.reg x)).getD k 0 := by
      rintro _ k hk rfl
      exact byte_putBytes_next_at s _ _ hk
    have hkept : ∀ a, a < s.i.toNat ∨ s.i.toNat + 3 ≤ a →
        (s.putBytes s.i.toNat (decimalDigits (s.reg x))).next.byte a = s.byte a :=
      fun a ha => byte_putBytes_next_of_outside s _ _ ha
    refine ⟨_, _, _, State.exec_ldB_inside s x (by omega), fetch_putBytes_next s _ _ hpc hin,
      fun h => ⟨?_, ?_⟩, fun h => ⟨hkept _ (by omega), ?_⟩, fun h => ⟨?_, ?_⟩,
      fun h => ⟨?_, hkept _ (by omega)⟩, fun h => ⟨hkept _ (by omega), hkept _ (by omega)⟩⟩
    · rw [hread _ 0 (by omega) (by omega), hhundreds]
    · rw [hread _ 1 (by omega) (by omega), htens]
    · rw [hread _ 0 (by omega) (by omega), hhundreds]
    · rw [hread _ 1 (by omega) (by omega), htens]
    · rw [hread _ 2 (by omega) (by omega), hones]
    · rw [hread _ 2 (by omega) (by omega), hones]

end Sys2Proof.Proofs
end

section
/-! PROOF. DRW (44_display.md R201). A draw turns a pixel over once for each sprite bit that falls on it, and
collides where a pixel that is on is hit, or one is hit twice; row by row, both add up over the rows. -/

namespace Sys2Proof.Proofs

open Sys2Proof.Machine Sys2Proof.Laws

/-! ### Hits of a whole sprite -/

/-- How many 1 bits of the sprite rows from row `r` on fall on pixel `q`. -/
def rowsHits (c : Config) (x0 y0 : Nat) (q : Nat × Nat) : Nat → List Byte → Nat
  | _, [] => 0
  | r, b :: rest => rowHits c x0 y0 r b (List.range 8) q + rowsHits c x0 y0 q (r + 1) rest

/-- The hits of rows given by a function of the row number. -/
theorem rowsHits_map_range (c : Config) (x0 y0 : Nat) (q : Nat × Nat) (r n : Nat) (rows : Nat → Byte) :
    rowsHits c x0 y0 q r ((List.range n).map rows) =
      ((List.range n).map fun k => rowHits c x0 y0 (r + k) (rows k) (List.range 8) q).sum := by
  induction n generalizing r rows with
  | zero => rfl
  | succ n ih =>
    have hrange : List.range (n + 1) = 0 :: (List.range n).map Nat.succ := List.range_succ_eq_map
    simp only [hrange, List.map_cons, List.map_map, List.sum_cons, rowsHits, Nat.add_zero]
    rw [ih (r + 1) (rows ∘ Nat.succ)]
    simp only [Function.comp_def, Nat.succ_eq_add_one, Nat.add_right_comm r 1, Nat.add_assoc]

/-- The specification's count of hits is the count row by row. -/
theorem spriteHits_eq_rowsHits (s : State) (x y : Reg) (n p q : Nat) :
    spriteHits s x y n p q =
      rowsHits s.cfg (s.reg x).toNat (s.reg y).toNat (p, q) 0 (s.bytes s.i.toNat n) := by
  rw [State.bytes, rowsHits_map_range]
  simp only [spriteHits, rowHits, spriteBit, spritePixel, Nat.zero_add, Prod.mk.injEq, Bool.decide_and,
    Bool.and_assoc]
  simp only [beq_eq_decide, eq_comm (a := p), eq_comm (a := q)]

/-! ### Pixels -/

/-- Two counts of hits turn a pixel over as their sum does. -/
theorem odd_add (m n : Nat) : ((m + n) % 2 == 1) = ((m % 2 == 1) ^^ (n % 2 == 1)) := by
  obtain hm | hm := Nat.mod_two_eq_zero_or_one m <;> obtain hn | hn := Nat.mod_two_eq_zero_or_one n <;>
    simp [Nat.add_mod, hm, hn]

/-- The pixels after all rows of a sprite. -/
theorem on_rows (c : Config) (x0 y0 r : Nat) (sprite : List Byte) (d : Drawing) (q : Nat × Nat) :
    (Drawing.rows c x0 y0 r sprite d).fb.on q =
      (d.fb.on q ^^ (rowsHits c x0 y0 q r sprite % 2 == 1)) := by
  induction sprite generalizing r d with
  | nil => simp [Drawing.rows, rowsHits]
  | cons b rest ih => rw [Drawing.rows, ih, Drawing.on_row, rowsHits, odd_add, Bool.xor_assoc]

/-! ### Collisions -/

/-- A pixel that is `on` and hit `n` times goes from on to off during the draw. -/
def Collides (on : Bool) (n : Nat) : Prop := (on = true ∧ 1 ≤ n) ∨ 2 ≤ n

/-- `m` hits and then `n` collide when the first ones do, or the others on the pixel as those leave it. -/
theorem collides_add (on : Bool) (m n : Nat) :
    Collides on (m + n) ↔ Collides on m ∨ Collides (on ^^ (m % 2 == 1)) n := by
  unfold Collides
  obtain hm | hm := Nat.mod_two_eq_zero_or_one m <;> cases on <;> simp [hm] <;> omega

/-- A single bit collides when it falls on a pixel that is on. -/
theorem collides_bit (on hit : Bool) : Collides on (if hit then 1 else 0) ↔ hit = true ∧ on = true := by
  cases hit <;> cases on <;> simp [Collides]

theorem collision_row (c : Config) (x0 y0 r : Nat) (b : Byte) (d : Drawing) :
    (d.row c x0 y0 r b).collision = true ↔
      d.collision = true ∨ ∃ q, Collides (d.fb.on q) (rowHits c x0 y0 r b (List.range 8) q) := by
  unfold Drawing.row
  generalize List.range 8 = ks
  induction ks generalizing d with
  | nil => simp [rowHits, Collides]
  | cons k ks ih =>
    have hodd : ∀ hit : Bool, ((if hit then 1 else 0) % 2 == 1) = hit := by decide
    have hsplit : ∀ q, Collides (d.fb.on q) (rowHits c x0 y0 r b (k :: ks) q) ↔
        ((spriteBit b k && decide (q = spritePixel c x0 y0 r k)) = true ∧ d.fb.on q = true) ∨
          Collides ((d.xor (spriteBit b k) (spritePixel c x0 y0 r k)).fb.on q)
            (rowHits c x0 y0 r b ks q) := by
      intro q
      rw [rowHits_cons, Nat.add_comm, collides_add, collides_bit, hodd, Drawing.on_xor]
    have hfirst : (∃ q, (spriteBit b k && decide (q = spritePixel c x0 y0 r k)) = true ∧ d.fb.on q = true) ↔
        (spriteBit b k && d.fb.on (spritePixel c x0 y0 r k)) = true := by
      simp [and_assoc]
    rw [List.foldl_cons, ih, Drawing.collision_xor, Bool.or_eq_true, or_assoc, ← hfirst, ← exists_or]
    simp only [hsplit]

theorem collision_rows (c : Config) (x0 y0 r : Nat) (sprite : List Byte) (d : Drawing) :
    (Drawing.rows c x0 y0 r sprite d).collision = true ↔
      d.collision = true ∨ ∃ q, Collides (d.fb.on q) (rowsHits c x0 y0 q r sprite) := by
  induction sprite generalizing r d with
  | nil => simp [Drawing.rows, rowsHits, Collides]
  | cons b rest ih =>
    rw [Drawing.rows, ih, collision_row]
    simp only [rowsHits, collides_add, Drawing.on_row, exists_or, or_assoc]

/-! ### The instruction -/

/-- The pixels of the draw of DRW Vx,Vy,n. -/
theorem on_drawn (s : State) (x y : Reg) (n p q : Nat) :
    (s.drawn x y n).fb.on (p, q) = (s.pixel p q ^^ (spriteHits s x y n p q % 2 == 1)) := by
  rw [spriteHits_eq_rowsHits]
  exact on_rows _ _ _ 0 _ ⟨s.fb, false⟩ (p, q)

/-- The collision flag of the draw of DRW Vx,Vy,n. -/
theorem collision_drawn (s : State) (x y : Reg) (n : Nat) :
    (s.drawn x y n).collision = true ↔ ∃ p q, Collides (s.pixel p q) (spriteHits s x y n p q) := by
  have hrows := collision_rows s.cfg (s.reg x).toNat (s.reg y).toNat 0 (s.bytes s.i.toNat n) ⟨s.fb, false⟩
  simp only [spriteHits_eq_rowsHits]
  refine hrows.trans ?_
  simp [State.pixel]

theorem frame_draw_next (s : State) (fb : Framebuffer) (x : Reg) (b : Byte) :
    Frame s ({ s with fb := fb }.setReg x b).next [.pc, .regs, .pixels] :=
  frame_of_takeParts rfl

/-- Settles O50. -/
theorem drawXorsEachPixelOncePerSpriteBit : Obligations.DrawXorsEachPixelOncePerSpriteBit := by
  intro x y n s hin
  exact ⟨_, State.exec_drw_inside s x y n hin, on_drawn s x y n,
    reg_setReg_next_of_ne { s with fb := (s.drawn x y n).fb } 15 _, rfl, frame_draw_next s _ _ _⟩

/-- Settles O51: VF is the collision flag of the draw. -/
theorem drawFlagsCollisions : Obligations.DrawFlagsCollisions := by
  intro x y n s hin
  have hflag := reg_setReg_next_same { s with fb := (s.drawn x y n).fb } 15
    (flagByte (s.drawn x y n).collision)
  refine ⟨_, State.exec_drw_inside s x y n hin, fun hcollides => ?_, fun hclear => ?_⟩
  · rw [hflag, (collision_drawn s x y n).mpr hcollides]
    rfl
  · have hnone : (s.drawn x y n).collision = false := by
      rw [← Bool.not_eq_true, collision_drawn]
      rintro ⟨p, q, h⟩
      exact hclear p q h
    rw [hflag, hnone]
    rfl

/-- The sprite's hits depend on its coordinates, I, Memory and the configuration. -/
theorem spriteHits_congr {s t : State} {x y : Reg} (hcfg : t.cfg = s.cfg) (hbyte : ∀ a, t.byte a = s.byte a)
    (hi : t.i = s.i) (hx : t.reg x = s.reg x) (hy : t.reg y = s.reg y) (n p q : Nat) :
    spriteHits t x y n p q = spriteHits s x y n p q := by
  simp only [spriteHits, hcfg, hbyte, hi, hx, hy]

/-- Settles O52: the second draw hits each pixel as often as the first. -/
theorem drawingTwiceRestoresThePixels : Obligations.DrawingTwiceRestoresThePixels := by
  intro x y n s hx hy hin
  obtain ⟨t, ht, hpixel, hreg, -, hframe⟩ := drawXorsEachPixelOncePerSpriteBit x y n s hin
  have hcfg : t.cfg = s.cfg := hframe .cfg (by simp)
  have hi : t.i = s.i := hframe .index (by simp)
  have hbyte : ∀ a, t.byte a = s.byte a := hframe .memory (by simp)
  obtain ⟨u, hu, hpixel', -⟩ := drawXorsEachPixelOncePerSpriteBit x y n t (by rwa [hi, hcfg])
  refine ⟨t, u, ht, hu, fun p q => ?_⟩
  rw [hpixel', spriteHits_congr hcfg hbyte hi (hreg x hx) (hreg y hy), hpixel, Bool.xor_assoc, Bool.xor_self,
    Bool.xor_false]

end Sys2Proof.Proofs
end
